-- ==== Sys2Proof/Word.lean ====
section
/-! DEFINITION. The word types of the block: a byte of a buffer and a 32-bit register or command word
(spec 20_memory.md R57). -/

namespace Sys2Proof

/-- One byte of a buffer, a record or a frame (R57). -/
abbrev Byte := BitVec 8

/-- A 32-bit register value or command word (R57, R70). -/
abbrev Word := BitVec 32

end Sys2Proof
end

