-- ==== Sys2Proof/Syntax.lean ====
section
/-! DEFINITION. The commands of the block, one constructor per row of spec/opcode_table.json
(30_encoding.md R71 to R73). An operand has exactly the width of its field (R72). -/

namespace Sys2Proof

/-- A decoded command (R73). Each docstring names the rule that gives its meaning. -/
inductive Instr where
  /-- NOP (R100). -/
  | nop
  /-- CLR_ALL (R101). -/
  | clrAll
  /-- Q_PUSH len (R111). -/
  | qPush (len : BitVec 8)
  /-- Q_POP (R112). -/
  | qPop
  /-- Q_CLEAR (R113). -/
  | qClear
  /-- H15113A_ENC (R133). -/
  | h15113aEnc
  /-- H15113A_DEC (R134). -/
  | h15113aDec
  /-- H15113B_ENC (R136). -/
  | h15113bEnc
  /-- H15113B_DEC (R137). -/
  | h15113bDec
  /-- H1393_ENC (R139). -/
  | h1393Enc
  /-- H1393_DEC (R140). -/
  | h1393Dec
  /-- H17123_ENC (R142). -/
  | h17123Enc
  /-- H17123_DEC (R143). -/
  | h17123Dec
  /-- GOLAY_ENC (R163). -/
  | golayEnc
  /-- GOLAY_DEC (R164). -/
  | golayDec
  /-- BPTC_ENC (R182). -/
  | bptcEnc
  /-- BPTC_DEC (R183). -/
  | bptcDec
  /-- CONV_ENC N (R201). -/
  | convEnc (n : BitVec 16)
  /-- CONV_START (R203). -/
  | convStart
  /-- CONV_STEP s0, s1 (R204). -/
  | convStep (s0 s1 : BitVec 8)
  /-- CONV_CHAINBACK N (R207). -/
  | convChainback (n : BitVec 16)
  /-- JB_RESET (R232). -/
  | jbReset
  /-- JB_ADD len, seq (R233). -/
  | jbAdd (len : BitVec 8) (seq : BitVec 16)
  /-- JB_GET (R234). -/
  | jbGet
  /-- JB_CLOCK ms (R235). -/
  | jbClock (ms : BitVec 16)
deriving DecidableEq, Repr

end Sys2Proof
end

