-- ==== Sys2Proof/Decode.lean ====
section
/-! DEFINITION. The command decoder (30_encoding.md R70 to R76) and, after it, the encoder (R71, R77).
The decoder is total: it answers a command, or names the first of checks 1 and 2 of R74 that fails. -/

namespace Sys2Proof

/-- Why a command word names no command: checks 1 and 2 of R74. -/
inductive DecodeError where
  /-- OP is not in the opcode map (R75). -/
  | illegalOp
  /-- A field the format requires to be 0 is not 0 (R76). -/
  | reservedField
deriving DecidableEq, Repr

/-- OP = CW[7:0] (R70). -/
def cwOp (cw : Word) : BitVec 8 := cw.extractLsb' 0 8

/-- LEN8 = CW[15:8] (R70). -/
def cwLen8 (cw : Word) : BitVec 8 := cw.extractLsb' 8 8

/-- IMM16 = CW[31:16] (R70). -/
def cwImm16 (cw : Word) : BitVec 16 := cw.extractLsb' 16 16

/-- S0 = CW[23:16] (R70). -/
def cwS0 (cw : Word) : BitVec 8 := cw.extractLsb' 16 8

/-- S1 = CW[31:24] (R70). -/
def cwS1 (cw : Word) : BitVec 8 := cw.extractLsb' 24 8

/-- Format F0: LEN8 and IMM16 must be 0 (R71). -/
def decodeF0 (cw : Word) (i : Instr) : Except DecodeError Instr :=
  if cwLen8 cw = 0 ∧ cwImm16 cw = 0 then .ok i else .error .reservedField

/-- Format FL: IMM16 must be 0, LEN8 is the length (R71). -/
def decodeFL (cw : Word) (mk : BitVec 8 → Instr) : Except DecodeError Instr :=
  if cwImm16 cw = 0 then .ok (mk (cwLen8 cw)) else .error .reservedField

/-- Format FN: LEN8 must be 0, IMM16 is the number (R71). -/
def decodeFN (cw : Word) (mk : BitVec 16 → Instr) : Except DecodeError Instr :=
  if cwLen8 cw = 0 then .ok (mk (cwImm16 cw)) else .error .reservedField

/-- Format FS: LEN8 must be 0, IMM16 is the symbol pair (R71). -/
def decodeFS (cw : Word) (mk : BitVec 8 → BitVec 8 → Instr) : Except DecodeError Instr :=
  if cwLen8 cw = 0 then .ok (mk (cwS0 cw) (cwS1 cw)) else .error .reservedField

/-- Format FLS: LEN8 is the length, IMM16 the sequence number; nothing is reserved (R71). -/
def decodeFLS (cw : Word) (mk : BitVec 8 → BitVec 16 → Instr) : Except DecodeError Instr :=
  .ok (mk (cwLen8 cw) (cwImm16 cw))

/-- The decoder: the opcode map of R73, then the reserved fields of the opcode's format (R74, R76). -/
def decode (cw : Word) : Except DecodeError Instr :=
  match (cwOp cw).toNat with
  | 0x00 => decodeF0 cw .nop
  | 0x01 => decodeF0 cw .clrAll
  | 0x10 => decodeFL cw .qPush
  | 0x11 => decodeF0 cw .qPop
  | 0x12 => decodeF0 cw .qClear
  | 0x20 => decodeF0 cw .h15113aEnc
  | 0x21 => decodeF0 cw .h15113aDec
  | 0x22 => decodeF0 cw .h15113bEnc
  | 0x23 => decodeF0 cw .h15113bDec
  | 0x24 => decodeF0 cw .h1393Enc
  | 0x25 => decodeF0 cw .h1393Dec
  | 0x26 => decodeF0 cw .h17123Enc
  | 0x27 => decodeF0 cw .h17123Dec
  | 0x28 => decodeF0 cw .golayEnc
  | 0x29 => decodeF0 cw .golayDec
  | 0x30 => decodeF0 cw .bptcEnc
  | 0x31 => decodeF0 cw .bptcDec
  | 0x40 => decodeFN cw .convEnc
  | 0x41 => decodeF0 cw .convStart
  | 0x42 => decodeFS cw .convStep
  | 0x43 => decodeFN cw .convChainback
  | 0x50 => decodeF0 cw .jbReset
  | 0x51 => decodeFLS cw .jbAdd
  | 0x52 => decodeF0 cw .jbGet
  | 0x53 => decodeFN cw .jbClock
  | _ => .error .illegalOp

/-- What the decoder reads from an instruction whose bits are `w`, numbered as the opcode table numbers them.
A command is one 32-bit register value, so there is no byte order to lay it out in (R57, R70). -/
def decodeTableWord (nbits w : Nat) : Option Instr :=
  match decode (BitVec.ofNat 32 (w % 2 ^ nbits)) with
  | .ok i => some i
  | .error _ => none

/-- Format F0: `000000000000000000000000oooooooo` (R71). -/
def encodeF0 (op : BitVec 8) : Word := 0#24 ++ op

/-- Format FL: `0000000000000000LLLLLLLLoooooooo` (R71). -/
def encodeFL (op len : BitVec 8) : Word := 0#16 ++ len ++ op

/-- Format FN: `NNNNNNNNNNNNNNNN00000000oooooooo` (R71). -/
def encodeFN (op : BitVec 8) (n : BitVec 16) : Word := n ++ 0#8 ++ op

/-- Format FS: `BBBBBBBBAAAAAAAA00000000oooooooo`, A = S0 and B = S1 (R71). -/
def encodeFS (op s0 s1 : BitVec 8) : Word := s1 ++ s0 ++ 0#8 ++ op

/-- Format FLS: `SSSSSSSSSSSSSSSSLLLLLLLLoooooooo` (R71). -/
def encodeFLS (op len : BitVec 8) (seq : BitVec 16) : Word := seq ++ len ++ op

/-- The command word of a command (R71, R73, R77). -/
def encode : Instr → Word
  | .nop => encodeF0 0x00
  | .clrAll => encodeF0 0x01
  | .qPush len => encodeFL 0x10 len
  | .qPop => encodeF0 0x11
  | .qClear => encodeF0 0x12
  | .h15113aEnc => encodeF0 0x20
  | .h15113aDec => encodeF0 0x21
  | .h15113bEnc => encodeF0 0x22
  | .h15113bDec => encodeF0 0x23
  | .h1393Enc => encodeF0 0x24
  | .h1393Dec => encodeF0 0x25
  | .h17123Enc => encodeF0 0x26
  | .h17123Dec => encodeF0 0x27
  | .golayEnc => encodeF0 0x28
  | .golayDec => encodeF0 0x29
  | .bptcEnc => encodeF0 0x30
  | .bptcDec => encodeF0 0x31
  | .convEnc n => encodeFN 0x40 n
  | .convStart => encodeF0 0x41
  | .convStep s0 s1 => encodeFS 0x42 s0 s1
  | .convChainback n => encodeFN 0x43 n
  | .jbReset => encodeF0 0x50
  | .jbAdd len seq => encodeFLS 0x51 len seq
  | .jbGet => encodeF0 0x52
  | .jbClock ms => encodeFN 0x53 ms

end Sys2Proof
end

