-- ==== Sys2Proof/Config.lean ====
section
/-! DEFINITION. What an instance of the block fixes: its parameters (00_scope.md R6, R8), the fixed sizes,
and the one free value of the model (notes/assumptions/6.md). -/

namespace Sys2Proof

/-- BPTC_ORDER: the order of the two sweeps inside one correction pass (R6, decision D14).
The value in CFG3 is 0 for `columnsThenRows` and 1 for `rowsThenColumns`. -/
inductive PassOrder where
  | columnsThenRows
  | rowsThenColumns
deriving DecidableEq, Repr

/-- The OPEN parameters of an instance (R6, R60). They are latched at reset and never change (R27, R331). -/
structure Params where
  /-- Q_CAP: frame queue capacity in bytes, prefixes included, 2..65535. -/
  qCap : Nat
  /-- JB_SLOTS: number of jitter-buffer slots, 1..255. -/
  jbSlots : Nat
  /-- JB_BLOCK_BYTES: longest frame one slot holds, 1..255. -/
  jbBlockBytes : Nat
  /-- JB_BLOCK_MS: nominal frame duration, 1..65535. -/
  jbBlockMs : Nat
  /-- JB_DELAY_MS: delay until the first frame is due, 0..65535. -/
  jbDelayMs : Nat
  /-- JB_SEQ_MOD: modulus of sequence numbers, JB_SLOTS..65535. -/
  jbSeqMod : Nat
  /-- JB_REPEAT_LIMIT: consecutive repeats allowed, 0..255. -/
  jbRepeatLimit : Nat
  /-- BPTC_ORDER. -/
  bptcOrder : PassOrder
  /-- CONV_Q: amplitude of a received symbol, 1..127. -/
  convQ : Nat
  /-- BLOCK_BASE: where the block's window starts in the platform's address space (R60); no range is stated. -/
  blockBase : Nat
deriving DecidableEq, Repr

/-- R8: every parameter inside its range, and JB_SEQ_MOD at least JB_SLOTS. -/
def Params.legal (p : Params) : Bool :=
  decide (2 ≤ p.qCap) && decide (p.qCap ≤ 65535) &&
  decide (1 ≤ p.jbSlots) && decide (p.jbSlots ≤ 255) &&
  decide (1 ≤ p.jbBlockBytes) && decide (p.jbBlockBytes ≤ 255) &&
  decide (1 ≤ p.jbBlockMs) && decide (p.jbBlockMs ≤ 65535) &&
  decide (p.jbDelayMs ≤ 65535) &&
  decide (p.jbSlots ≤ p.jbSeqMod) && decide (p.jbSeqMod ≤ 65535) &&
  decide (p.jbRepeatLimit ≤ 255) &&
  decide (1 ≤ p.convQ) && decide (p.convQ ≤ 127)

/-- The parameter set of the spec's test vectors (decision D34). BLOCK_BASE 0 is the model's own.
DESIGN CHOICE, unsafe: an instance may have any other legal set (notes/assumptions/3.md, 4.md). -/
def Params.vectorDefaults : Params where
  qCap := 16
  jbSlots := 4
  jbBlockBytes := 8
  jbBlockMs := 20
  jbDelayMs := 60
  jbSeqMod := 256
  jbRepeatLimit := 1
  bptcOrder := .columnsThenRows
  convQ := 1
  blockBase := 0

/-- BPTC_MAX_PASSES, fixed (R6). -/
abbrev Config.bptcMaxPasses : Nat := 5

/-- CONV_MAX_STEPS, the number of stored decision words (R6, R32). -/
abbrev Config.convMaxSteps : Nat := 180

/-- IBUF_BYTES and OBUF_BYTES (R6). -/
abbrev Config.bufferBytes : Nat := 256

/-- The largest N of CONV_ENC (R201, decision D17). -/
abbrev Config.convEncMaxBits : Nat := 1024

/-- The number of addresses of the block's window: 12-bit addresses (R35). -/
abbrev Config.windowBytes : Nat := 4096

/-- FREE VALUE: decides which path metric, among those up to R33's bound, is stored for one new trellis state when its
sum by R205 does not fit the sixteen bits that R32 gives it. Its arguments are all that R205 computes the metric from: PM, CONV_Q, the symbols s0 and s1, and the
number of the new state, so that the next state is a function of the block's state and the command word alone (R102).
DESIGN CHOICE (notes/assumptions/6.md): nothing is assumed of the value itself. -/
opaque Config.metricOverflow : Vector (BitVec 16) 16 → Nat → Nat → Nat → Nat → BitVec 16

end Sys2Proof
end

