-- ==== Sys2Proof/Machine/State.lean ====
section
/-! DEFINITION. The state of the block (10_state.md), its reset (70_reset_and_hazards.md R330, R331), and the
closed sets of codes and of reasons to stop. -/

namespace Sys2Proof.Machine

/-- A byte buffer in canonical form: buffer index and byte, indices strictly rising, no byte listed that equals
what an unlisted index reads as (`Memory.wf`, `Memory.unlisted` in Machine/Ops.lean). -/
abbrev Memory := List Host.Cell

/-- The result codes of R25, in the order of its table. No other value is ever in RESULT. -/
inductive ResultCode where
  | ok
  | clean
  | corrected
  | uncorrectable
  | qFull
  | qEmpty
  | jbOutOfWindow
  | jbDuplicate
  | jbNoData
  | jbData
  | jbRepeat
  | jbMissing
  | faulted
deriving DecidableEq, Repr

/-- The fault codes of R301, and `noFault` for FAULT_CODE = 0x00. No other value is ever in FAULT_CODE. -/
inductive ErrCode where
  | noFault
  | illegalOp
  | reservedField
  | operand
  | sequence
  | decisionFull
  | chainbackRange
  | bus
  | counterLimit
deriving DecidableEq, Repr

/-- One thing the outside world does to the block (20_memory.md R50, 70_reset_and_hazards.md R330).
Addresses are system addresses; the block's window starts at BLOCK_BASE (R60). `width` is in bits. -/
inductive HostEvent where
  /-- A host read. -/
  | read (addr width : Nat)
  /-- A host write of `value`. -/
  | write (addr width : Nat) (value : Word)
  /-- The hardware reset. -/
  | reset
deriving DecidableEq, Repr

/-- Why the model could stop with a fault. There is no such reason: a fault of the block is recorded in its own
registers and the block goes on (60_exceptions.md R300, R303, R306), which is a next state. Safe. -/
inductive Fault where
deriving DecidableEq, Repr

/-- Why the model has no answer. -/
inductive Refusal where
  /-- An instruction without a meaning yet. No arm of `exec` raises it. Safe. -/
  | notModelled (mnemonic : String)
  /-- Raised by `State.resetWith` for a parameter set that is not legal: no reset state exists for it
  (00_scope.md R8, 70_reset_and_hazards.md R331). Safe. -/
  | illegalParameters
deriving DecidableEq, Repr

/-- The state of one block. Every field but the last three is state the spec names. -/
structure State where
  /-- The parameters, shown by CFG0 to CFG3 (R6, R27). -/
  params : Params
  /-- CMD_LAST (R22). -/
  cmdLast : Word
  /-- RESULT (R25). -/
  result : ResultCode
  /-- FAULT, the sticky fault flag (R26). -/
  fault : Bool
  /-- FAULT_CODE, the code of the first fault since reset (R26). -/
  faultCode : ErrCode
  /-- AUX (R24). -/
  aux : Byte
  /-- OLEN, the number of valid bits in OBUF, 0..2048 (R23, R29). -/
  olen : Nat
  /-- IBUF, 256 bytes keyed by buffer index (R28). -/
  ibuf : Memory
  /-- OBUF, 256 bytes keyed by buffer index (R29). -/
  obuf : Memory
  /-- QDATA, oldest byte first (R30). -/
  qdata : List Byte
  /-- JB_SLOT[0..JB_SLOTS-1]: the data of each slot, whose length is the slot's len; the empty list is an empty
  slot (R31). -/
  jbSlots : List (List Byte)
  /-- JB_H, slots released since the last jitter-buffer reset, 0..2^32-1 (R31). -/
  jbH : Nat
  /-- JB_SEQ0, the sequence number the window was anchored to (R31). -/
  jbSeq0 : Nat
  /-- JB_ARMED (R31). -/
  jbArmed : Bool
  /-- JB_ELAPSED in ms, 0..2^32-1, saturating (R31). -/
  jbElapsed : Nat
  /-- JB_LAST: the data of the last delivered frame, whose length is its len (R31). -/
  jbLast : List Byte
  /-- JB_LAST_VALID (R31). -/
  jbLastValid : Bool
  /-- JB_REPEATS, 0..255 (R31). -/
  jbRepeats : Nat
  /-- CONV_STARTED (R32). -/
  convStarted : Bool
  /-- CONV_DP, the number of stored decisions, 0..180 (R32). -/
  convDp : Nat
  /-- PM[0..15], the path metrics (R32). -/
  pm : Vector (BitVec 16) 16
  /-- DEC[0..179], the decision words (R32). -/
  dec : Vector (BitVec 16) 180
  /-- The model's own: host events not yet taken, the next one first (notes/assumptions/1.md). -/
  inbox : List HostEvent
  /-- The model's own: what host reads have returned, oldest first (notes/assumptions/2.md). -/
  replies : List Word
  /-- The model's own: how many steps stored a free path metric; no rule reads it (notes/assumptions/6.md). -/
  freeDraws : Nat
deriving DecidableEq, Repr

/-- The block right after reset with the parameter set `p` (R330). -/
def State.init (p : Params) : State where
  params := p
  cmdLast := 0
  result := .ok
  fault := false
  faultCode := .noFault
  aux := 0
  olen := 0
  ibuf := []
  obuf := []
  qdata := []
  jbSlots := List.replicate p.jbSlots []
  jbH := 0
  jbSeq0 := 0
  jbArmed := false
  jbElapsed := 0
  jbLast := []
  jbLastValid := false
  jbRepeats := 0
  convStarted := false
  convDp := 0
  pm := Vector.replicate 16 0
  dec := Vector.replicate 180 0
  inbox := []
  replies := []
  freeDraws := 0

/-- Reset of an instance with parameter set `p`: it is refused when `p` is not legal (R8, R331). -/
def State.resetWith (p : Params) : Host.Outcome State Fault Refusal :=
  if p.legal then .next (State.init p) else .refused .illegalParameters

/-- The reset state of the instance with the spec's test-vector parameters.
DESIGN CHOICE, unsafe: the parameters are OPEN (notes/assumptions/3.md). -/
def State.reset : State := State.init Params.vectorDefaults

end Sys2Proof.Machine
end

