-- ==== Sys2Proof/Machine/Flags.lean ====
section
/-! DEFINITION. The condition codes of the block: RESULT, AUX, FAULT and FAULT_CODE (10_state.md R24 to R26,
60_exceptions.md R301). No other flag exists (R25). -/

namespace Sys2Proof.Machine

/-- The value of each result code (R25). -/
def ResultCode.toByte : ResultCode → Byte
  | .ok => 0x00
  | .clean => 0x01
  | .corrected => 0x02
  | .uncorrectable => 0x03
  | .qFull => 0x10
  | .qEmpty => 0x11
  | .jbOutOfWindow => 0x20
  | .jbDuplicate => 0x21
  | .jbNoData => 0x22
  | .jbData => 0x23
  | .jbRepeat => 0x24
  | .jbMissing => 0x25
  | .faulted => 0xFF

/-- The value of each fault code (R301); 0x00 means no fault since reset. -/
def ErrCode.toByte : ErrCode → Byte
  | .noFault => 0x00
  | .illegalOp => 0x01
  | .reservedField => 0x02
  | .operand => 0x03
  | .sequence => 0x04
  | .decisionFull => 0x05
  | .chainbackRange => 0x06
  | .bus => 0x07
  | .counterLimit => 0x08

/-- `RESULT <- r; AUX <- a` (R11, R24). -/
def setResult (r : ResultCode) (a : Byte) (s : State) : State := { s with result := r, aux := a }

/-- The sticky fault record: only the first fault since reset is written (R26). -/
def recordFault (e : ErrCode) (s : State) : State :=
  if s.fault then s else { s with fault := true, faultCode := e }

end Sys2Proof.Machine
end

