-- ==== Sys2Proof/Machine/Ops.lean ====
section
/-! DEFINITION. The named operations over the state: the byte buffers and their bit order (20_memory.md R52),
the output primitive (00_scope.md R11), the fault mechanism (60_exceptions.md R300, R303), and the clears that
CLR_ALL shares with the unit commands (70_reset_and_hazards.md R332).
A fault is the block's only exception. It is not a trap: nothing is saved, and there is no return from it
(R306, R307). -/

namespace Sys2Proof.Machine

/-- What a buffer byte that is not listed reads as: its reset value (R330). -/
def Memory.unlisted : Byte := 0

/-- Byte `a` of a buffer. -/
def Memory.read : Memory → Nat → Byte
  | [], _ => Memory.unlisted
  | (b, v) :: rest, a => if a = b then v else Memory.read rest a

/-- Write byte `a` of a buffer, keeping the canonical form. -/
def Memory.write : Memory → Nat → Byte → Memory
  | [], a, v => if v = Memory.unlisted then [] else [(a, v)]
  | (b, w) :: rest, a, v =>
    if a < b then
      if v = Memory.unlisted then (b, w) :: rest else (a, v) :: (b, w) :: rest
    else if a = b then
      if v = Memory.unlisted then rest else (a, v) :: rest
    else (b, w) :: Memory.write rest a v

/-- The buffer that holds `bytes` from index `a` on and the unlisted value elsewhere. -/
def Memory.ofBytesAt (a : Nat) : List Byte → Memory
  | [] => []
  | v :: rest =>
    if v = Memory.unlisted then Memory.ofBytesAt (a + 1) rest
    else (a, v) :: Memory.ofBytesAt (a + 1) rest

/-- The canonical form: indices strictly rising, and no listed byte equal to the unlisted value. -/
def Memory.wf (m : Memory) : Bool :=
  decide (m.Pairwise fun x y => x.1 < y.1) && m.all fun c => decide (c.2 ≠ Memory.unlisted)

/-- Every listed index lies in the buffer (R28, R29). -/
def Memory.inBuffer (m : Memory) : Bool := m.all fun c => decide (c.1 < Config.bufferBytes)

/-- `BUF.bit(i)`: bit i of a bit sequence is bit 7 - (i mod 8) of byte i div 8 (R11, R52). -/
def Memory.bit (m : Memory) (i : Nat) : Bool := (m.read (i / 8)).getLsbD (7 - i % 8)

/-- Bits 0..n-1 of a buffer. -/
def Memory.bits (m : Memory) (n : Nat) : List Bool := (List.range n).map m.bit

/-- Bytes 0..n-1 of a buffer. -/
def Memory.bytes (m : Memory) (n : Nat) : List Byte := (List.range n).map m.read

/-- The 8 bits of a byte, most significant first (R52). -/
def byteBits (b : Byte) : List Bool := (List.range 8).map fun j => b.getLsbD (7 - j)

/-- The bits of a byte list, each byte most significant bit first (R11, R52). -/
def bytesBits (bs : List Byte) : List Bool := bs.flatMap byteBits

/-- The byte whose bits, most significant first, are the first 8 of `d`; a missing bit is 0 (R52). -/
def byteOfBits (d : List Bool) : Byte :=
  BitVec.ofNat 8
    ((d.getD 0 false).toNat * 128 + (d.getD 1 false).toNat * 64 + (d.getD 2 false).toNat * 32 +
     (d.getD 3 false).toNat * 16 + (d.getD 4 false).toNat * 8 + (d.getD 5 false).toNat * 4 +
     (d.getD 6 false).toNat * 2 + (d.getD 7 false).toNat)

/-- `n` bytes that hold the bit sequence `d` from the first bit on, filled up with 0 bits. -/
def packBits : Nat → List Bool → List Byte
  | 0, _ => []
  | n + 1, d => byteOfBits d :: packBits n (d.drop 8)

/-- `OUT(bits)`: the output bits, then 0 in every remaining bit of all 256 bytes, and OLEN (R11, R29). -/
def out (d : List Bool) (s : State) : State :=
  { s with obuf := Memory.ofBytesAt 0 (packBits Config.bufferBytes d), olen := d.length }

/-- `OUTB(bytes)`: OUT of the bits of a byte list (R11). -/
def outBytes (bs : List Byte) (s : State) : State := out (bytesBits bs) s

/-- `raise Fault(code)`: RESULT and AUX, and the sticky record; nothing else changes (R300). -/
def raiseFault (e : ErrCode) (s : State) : State := recordFault e (setResult .faulted 0 s)

/-- A bus fault: the sticky record alone; RESULT and AUX keep their values (R303). -/
def busFault (s : State) : State := recordFault .bus s

/-- QDATA emptied (R113). -/
def clearQueue (s : State) : State := { s with qdata := [] }

/-- The jitter buffer's state at its reset values (R232). -/
def clearJitter (s : State) : State :=
  { s with
    jbSlots := List.replicate s.params.jbSlots []
    jbH := 0
    jbSeq0 := 0
    jbArmed := false
    jbElapsed := 0
    jbLast := []
    jbLastValid := false
    jbRepeats := 0 }

/-- The convolutional decoder's state at its reset values (R101). -/
def clearDecoder (s : State) : State :=
  { s with
    convStarted := false
    convDp := 0
    pm := Vector.replicate 16 0
    dec := Vector.replicate 180 0 }

end Sys2Proof.Machine
end

