-- ==== Sys2Proof/Machine/Operands.lean ====
section
/-! DEFINITION. Operand forms: the operand ranges (check 3 of 30_encoding.md R74), the data operands in IBUF
(40_system.md R103), and the modular arithmetic of sequence numbers (00_scope.md R10). -/

namespace Sys2Proof.Machine

/-- `IBUF.bit(0..n-1)` as a bit sequence (R11, R103). -/
def inputBits (n : Nat) (s : State) : List Bool := s.ibuf.bits n

/-- `IBUF[0..n-1]` (R11, R103). -/
def inputBytes (n : Nat) (s : State) : List Byte := s.ibuf.bytes n

/-- `(a - b) mod m`, taken in 0..m-1 (R10, R104). -/
def subMod (a b m : Nat) : Nat := (a + (m - b % m)) % m

/-- Q_PUSH faults on len = 0 (R111). -/
def qPushBadOperand (len : BitVec 8) : Bool := decide (len.toNat = 0)

/-- CONV_ENC faults on N = 0 and N > 1024 (R201). -/
def convEncBadOperand (n : BitVec 16) : Bool :=
  decide (n.toNat = 0) || decide (n.toNat > Config.convEncMaxBits)

/-- CONV_STEP faults on a symbol above CONV_Q (R204). -/
def convStepBadOperand (p : Params) (s0 s1 : BitVec 8) : Bool :=
  decide (s0.toNat > p.convQ) || decide (s1.toNat > p.convQ)

/-- CONV_CHAINBACK faults on N = 0 (R207). -/
def convChainbackBadOperand (n : BitVec 16) : Bool := decide (n.toNat = 0)

/-- JB_ADD faults on len = 0, len > JB_BLOCK_BYTES and seq >= JB_SEQ_MOD (R233). -/
def jbAddBadOperand (p : Params) (len : BitVec 8) (seq : BitVec 16) : Bool :=
  decide (len.toNat = 0) || decide (len.toNat > p.jbBlockBytes) || decide (seq.toNat ≥ p.jbSeqMod)

end Sys2Proof.Machine
end

