-- ==== Sys2Proof/Machine/Hamming.lean ====
section
/-! DEFINITION. The Hamming codes (42_hamming.md). The parity equations are the spec's, which it marks as from
general knowledge (notes/assumptions/9.md). -/

namespace Sys2Proof.Machine

/-- An (n, k) Hamming code: k data bits and one parity bit for each equation set E[j] of data-bit indices, so
n = k + the number of sets (R130). -/
structure HammingCode where
  /-- The number of data bits. -/
  k : Nat
  /-- The equation sets E[0], E[1], ... -/
  eqs : List (List Nat)
deriving DecidableEq, Repr

/-- The codeword length n (R130). -/
def HammingCode.n (c : HammingCode) : Nat := c.k + c.eqs.length

/-- Hamming (15,11,3) variant A (R146). -/
def h15113a : HammingCode where
  k := 11
  eqs := [[0, 1, 2, 3, 4, 5, 6], [0, 1, 2, 3, 7, 8, 9], [0, 1, 4, 5, 7, 8, 10], [0, 2, 4, 6, 7, 9, 10]]

/-- Hamming (15,11,3) variant B (R147). -/
def h15113b : HammingCode where
  k := 11
  eqs := [[0, 1, 2, 3, 5, 7, 8], [1, 2, 3, 4, 6, 8, 9], [2, 3, 4, 5, 7, 9, 10], [0, 1, 2, 4, 6, 7, 10]]

/-- Hamming (13,9,3) (R148). -/
def h1393 : HammingCode where
  k := 9
  eqs := [[0, 1, 3, 5, 6], [0, 1, 2, 4, 6, 7], [0, 1, 2, 3, 5, 7, 8], [0, 2, 4, 5, 8]]

/-- Hamming (17,12,3) (R149). -/
def h17123 : HammingCode where
  k := 12
  eqs := [[0, 1, 2, 3, 6, 7, 9], [0, 1, 2, 3, 4, 7, 8, 10], [1, 2, 3, 4, 5, 8, 9, 11], [0, 1, 4, 5, 7, 10],
    [0, 1, 2, 5, 6, 8, 11]]

/-- Bit i of a bit sequence. -/
def bitAt (d : List Bool) (i : Nat) : Bool := d.getD i false

/-- `P_j(d)`: the XOR of d[i] for i in an equation set (R130). -/
def parity (e : List Nat) (d : List Bool) : Bool := e.foldl (fun acc i => acc ^^ bitAt d i) false

/-- The number whose bit j is the j-th Boolean. -/
def bitsToNat : List Bool → Nat
  | [] => 0
  | b :: rest => b.toNat + 2 * bitsToNat rest

/-- `P_j(d) ^ d[k+j]` for j = 0, 1, ..., with `pos` = k + j the place of the parity bit (R130). -/
def syndromeBits (d : List Bool) : Nat → List (List Nat) → List Bool
  | _, [] => []
  | pos, e :: rest => (parity e d ^^ bitAt d pos) :: syndromeBits d (pos + 1) rest

/-- `syn(d)`: bit j is P_j(d) ^ d[k+j] (R130). -/
def HammingCode.syn (c : HammingCode) (d : List Bool) : Nat := bitsToNat (syndromeBits d c.k c.eqs)

/-- `e_i`: the sequence of length n with only bit i set (R130). -/
def unitBits (n i : Nat) : List Bool := (List.range n).map fun j => decide (j = i)

/-- `col(i) = syn(e_i)` (R130). -/
def HammingCode.col (c : HammingCode) (i : Nat) : Nat := c.syn (unitBits c.n i)

/-- The codeword of k data bits (R131). -/
def HammingCode.encode (c : HammingCode) (d : List Bool) : List Bool := d ++ c.eqs.map fun e => parity e d

/-- `d[i] <- d[i] ^ 1`. -/
def flipBit (d : List Bool) (i : Nat) : List Bool := d.set i (!bitAt d i)

/-- The bit a nonzero syndrome names, if any; it is unique since the columns are distinct (R132). -/
def HammingCode.errorAt (c : HammingCode) (s : Nat) : Option Nat := (List.range c.n).find? fun i => c.col i == s

/-- Decode one received word: the result code and the word after correction (R132). -/
def HammingCode.correct (c : HammingCode) (d : List Bool) : ResultCode × List Bool :=
  if c.syn d = 0 then (.clean, d)
  else
    match c.errorAt (c.syn d) with
    | some i => (.corrected, flipBit d i)
    | none => (.uncorrectable, d)

/-- The four `_ENC` commands (R131). -/
def hammingEncode (c : HammingCode) (s : State) : State := setResult .ok 0 (out (c.encode (inputBits c.k s)) s)

/-- The four `_DEC` commands (R132): the whole codeword after correction, and the syndrome in AUX. -/
def hammingDecode (c : HammingCode) (s : State) : State :=
  setResult (c.correct (inputBits c.n s)).1 (BitVec.ofNat 8 (c.syn (inputBits c.n s)))
    (out (c.correct (inputBits c.n s)).2 s)

/-- H15113A_ENC (R133). -/
def execH15113aEnc (s : State) : Host.Outcome State Fault Refusal := .next (hammingEncode h15113a s)

/-- H15113A_DEC (R134). -/
def execH15113aDec (s : State) : Host.Outcome State Fault Refusal := .next (hammingDecode h15113a s)

/-- H15113B_ENC (R136). -/
def execH15113bEnc (s : State) : Host.Outcome State Fault Refusal := .next (hammingEncode h15113b s)

/-- H15113B_DEC (R137). -/
def execH15113bDec (s : State) : Host.Outcome State Fault Refusal := .next (hammingDecode h15113b s)

/-- H1393_ENC (R139). -/
def execH1393Enc (s : State) : Host.Outcome State Fault Refusal := .next (hammingEncode h1393 s)

/-- H1393_DEC (R140). -/
def execH1393Dec (s : State) : Host.Outcome State Fault Refusal := .next (hammingDecode h1393 s)

/-- H17123_ENC (R142). -/
def execH17123Enc (s : State) : Host.Outcome State Fault Refusal := .next (hammingEncode h17123 s)

/-- H17123_DEC (R143). -/
def execH17123Dec (s : State) : Host.Outcome State Fault Refusal := .next (hammingDecode h17123 s)

end Sys2Proof.Machine
end

