-- ==== Sys2Proof/Machine/Bptc.lean ====
section
/-! DEFINITION. The block-interleaved iterative row-column corrector, BPTC (196,96) (44_bptc.md). The layout is
the spec's, which it marks as from general knowledge (notes/assumptions/9.md). -/

namespace Sys2Proof.Machine

/-- The length of the block (R180). -/
def bptcLen : Nat := 196

/-- The raw position of matrix position a: (a * 181) mod 196 (R180). -/
def bptcRaw (a : Nat) : Nat := (a * 181) % 196

/-- The matrix position of raw position r: (13 * r) mod 196 (R180). -/
def bptcMatrix (r : Nat) : Nat := (13 * r) % 196

/-- The matrix positions of row r: m[15r+1 .. 15r+15] (R180). -/
def bptcRow (r : Nat) : List Nat := (List.range 15).map fun i => 15 * r + 1 + i

/-- The matrix positions of column c, top to bottom: m[c+1+15a] for a = 0..12 (R180). -/
def bptcColumn (c : Nat) : List Nat := (List.range 13).map fun a => c + 1 + 15 * a

/-- `pos(i)`: the matrix position of payload bit i (R181). -/
def bptcPos (i : Nat) : Nat := if i < 8 then 4 + i else 15 * ((i - 8) / 11 + 1) + 1 + (i - 8) % 11

/-- The bits of `m` at the positions `idx`. -/
def gather (m : List Bool) (idx : List Nat) : List Bool := idx.map fun a => bitAt m a

/-- `m` with the bits `d` written at the positions `idx`. -/
def scatter (m : List Bool) : List Nat → List Bool → List Bool
  | a :: idx, b :: d => scatter (m.set a b) idx d
  | _, _ => m

/-- `raw[(a*181) mod 196] <- m[a]`: raw bit r is the matrix bit at (13 * r) mod 196 (R180). -/
def bptcInterleave (m : List Bool) : List Bool := (List.range bptcLen).map fun r => bitAt m (bptcMatrix r)

/-- `m[a] <- raw[(a*181) mod 196]` (R180, R183). -/
def bptcDeinterleave (raw : List Bool) : List Bool := (List.range bptcLen).map fun a => bitAt raw (bptcRaw a)

/-- Encode the first k bits at `idx` with the code `c` and write the codeword back (R182). -/
def bptcEncodeLine (c : HammingCode) (m : List Bool) (idx : List Nat) : List Bool :=
  scatter m idx (c.encode (gather m (idx.take c.k)))

/-- The matrix of a payload: rows 0..8 first, then the 15 columns (R182). -/
def bptcEncodeMatrix (p : List Bool) : List Bool :=
  let placed := scatter (List.replicate bptcLen false) ((List.range 96).map bptcPos) p
  let rows := (List.range 9).foldl (fun m r => bptcEncodeLine h15113b m (bptcRow r)) placed
  (List.range 15).foldl (fun m c => bptcEncodeLine h1393 m (bptcColumn c)) rows

/-- Decode one line with the code `c`: a CORRECTED line is written back and raises `fixing`; a CLEAN or
UNCORRECTABLE one is as it was, so nothing is written (R132, R183). -/
def bptcDecodeLine (c : HammingCode) (mf : List Bool × Bool) (idx : List Nat) : List Bool × Bool :=
  match c.correct (gather mf.1 idx) with
  | (.corrected, d) => (scatter mf.1 idx d, true)
  | _ => mf

/-- COLUMNS(): the columns 0..14 in order (R183). -/
def bptcColumns (mf : List Bool × Bool) : List Bool × Bool :=
  (List.range 15).foldl (fun acc c => bptcDecodeLine h1393 acc (bptcColumn c)) mf

/-- ROWS(): the data rows 0..8 in order (R183). -/
def bptcRows (mf : List Bool × Bool) : List Bool × Bool :=
  (List.range 9).foldl (fun acc r => bptcDecodeLine h15113b acc (bptcRow r)) mf

/-- One pass: the matrix after it and `fixing` (R183). -/
def bptcPass (order : PassOrder) (m : List Bool) : List Bool × Bool :=
  match order with
  | .columnsThenRows => bptcRows (bptcColumns (m, false))
  | .rowsThenColumns => bptcColumns (bptcRows (m, false))

/-- What the correction loop leaves: the matrix, the passes run, and whether any pass corrected (R183). -/
structure BptcRun where
  matrix : List Bool
  passes : Nat
  any : Bool
deriving DecidableEq, Repr

/-- `repeat ... until fixing = 0 or passes = BPTC_MAX_PASSES`, with `fuel` passes left (R183, R184). -/
def bptcLoop (order : PassOrder) : Nat → BptcRun → BptcRun
  | 0, run => run
  | fuel + 1, run =>
    match bptcPass order run.matrix with
    | (m, true) => bptcLoop order fuel ⟨m, run.passes + 1, true⟩
    | (m, false) => ⟨m, run.passes + 1, run.any⟩

/-- `bad`: some row 0..8 or some column has a nonzero syndrome (R183). -/
def bptcBad (m : List Bool) : Bool :=
  ((List.range 9).any fun r => h15113b.syn (gather m (bptcRow r)) != 0) ||
  ((List.range 15).any fun c => h1393.syn (gather m (bptcColumn c)) != 0)

/-- The status of a run: from the syndromes after the last pass (R183, R184). -/
def bptcStatus (run : BptcRun) : ResultCode :=
  if bptcBad run.matrix then .uncorrectable else if run.any then .corrected else .clean

/-- The correction of a raw block (R183). -/
def bptcCorrect (order : PassOrder) (raw : List Bool) : BptcRun :=
  bptcLoop order Config.bptcMaxPasses ⟨bptcDeinterleave raw, 0, false⟩

/-- The payload bits of a matrix: m[pos(0)], ..., m[pos(95)] (R183). -/
def bptcPayload (m : List Bool) : List Bool := gather m ((List.range 96).map bptcPos)

/-- BPTC_ENC (R182). -/
def execBptcEnc (s : State) : Host.Outcome State Fault Refusal :=
  .next (setResult .ok 0 (out (bptcInterleave (bptcEncodeMatrix (inputBits 96 s))) s))

/-- BPTC_DEC (R183): the payload after correction, and the number of passes in AUX. -/
def execBptcDec (s : State) : Host.Outcome State Fault Refusal :=
  let run := bptcCorrect s.params.bptcOrder (inputBits bptcLen s)
  .next (setResult (bptcStatus run) (BitVec.ofNat 8 run.passes) (out (bptcPayload run.matrix) s))

end Sys2Proof.Machine
end

