-- ==== Sys2Proof/Machine/Convolutional.lean ====
section
/-! DEFINITION. The rate-1/2 convolutional encoder and the trellis decoder (45_convolutional.md). The code is the
spec's, which it marks as from general knowledge (notes/assumptions/9.md). -/

namespace Sys2Proof.Machine

/-- The encoder from the registers e1, e2, e3, e4: for each input bit g1, then g2, then the shift (R200). -/
def convEncodeFrom (e1 e2 e3 e4 : Bool) : List Bool → List Bool
  | [] => []
  | x :: rest => (x ^^ e3 ^^ e4) :: (x ^^ e1 ^^ e2 ^^ e4) :: convEncodeFrom x e1 e2 e3 rest

/-- CONV_ENC N (R201). -/
def execConvEnc (n : BitVec 16) (s : State) : Host.Outcome State Fault Refusal :=
  if convEncBadOperand n then .next (raiseFault .operand s)
  else .next (setResult .ok 0 (out (convEncodeFrom false false false false (inputBits n.toNat s)) s))

/-- CONV_START (R203): metrics 0, no stored decision; the DEC words are kept. -/
def execConvStart (s : State) : Host.Outcome State Fault Refusal :=
  .next (setResult .ok 0 { s with pm := Vector.replicate 16 0, convDp := 0, convStarted := true })

/-- `|a - b|` of two natural numbers (R10). -/
def absDiff (a b : Nat) : Nat := (a - b) + (b - a)

/-- BT1: g1 of the branch from state i = 0..7 with input 0 (R205). -/
def branchG1 (i : Nat) : Nat := [0, 0, 0, 0, 1, 1, 1, 1].getD i 0

/-- BT2: g2 of the same branch (R205). -/
def branchG2 (i : Nat) : Nat := [0, 1, 1, 0, 0, 1, 1, 0].getD i 0

/-- `metric` of butterfly i: the distance of the received pair from the branch's code pair (R205). -/
def branchMetric (q i s0 s1 : Nat) : Nat := absDiff (q * branchG1 i) s0 + absDiff (q * branchG2 i) s1

/-- The distance on the branch from state i into new state 2i + x: `metric` for x = 0, `M - metric` for x = 1;
the branch from state i + 8 has the complement (R205). -/
def branchCost (q i x s0 s1 : Nat) : Nat :=
  if x = 0 then branchMetric q i s0 s1 else 2 * q - branchMetric q i s0 s1

/-- The candidate `m0` of new state t = 2i + x, from state i (R205). -/
def acsLow (pm : Vector (BitVec 16) 16) (q s0 s1 t : Nat) : Nat :=
  (pm.getD (t / 2) 0).toNat + branchCost q (t / 2) (t % 2) s0 s1

/-- The candidate `m1` of new state t = 2i + x, from state i + 8 (R205). -/
def acsHigh (pm : Vector (BitVec 16) 16) (q s0 s1 t : Nat) : Nat :=
  (pm.getD (t / 2 + 8) 0).toNat + (2 * q - branchCost q (t / 2) (t % 2) s0 s1)

/-- The decision of new state t: 1 if m0 >= m1, so a tie picks the predecessor i + 8 (R205, R206). -/
def acsDecision (pm : Vector (BitVec 16) 16) (q s0 s1 t : Nat) : Bool :=
  decide (acsLow pm q s0 s1 t ≥ acsHigh pm q s0 s1 t)

/-- The exact metric of new state t: the survivor's (R205). -/
def acsMetric (pm : Vector (BitVec 16) 16) (q s0 s1 t : Nat) : Nat :=
  if acsDecision pm q s0 s1 t then acsHigh pm q s0 s1 t else acsLow pm q s0 s1 t

/-- R33's bound on a path metric: 2 * CONV_Q * 180, at most 45720 for a legal CONV_Q. PM's sixteen bits (R32) are the
bound for any other. -/
def metricLimit (q : Nat) : Nat := min (2 * q * Config.convMaxSteps) 65535

/-- A metric as PM holds it: R205's sum where it fits the sixteen bits of R32. Where it does not, R205 gives no value
that PM can hold, and the metric is free among those that R33 admits. DESIGN CHOICE, unsafe (notes/assumptions/6.md). -/
def storeMetric (q : Nat) (free : BitVec 16) (m : Nat) : BitVec 16 :=
  if m < 65536 then BitVec.ofNat 16 m else BitVec.ofNat 16 (free.toNat % (metricLimit q + 1))

/-- `new` of ACS(PM, s0, s1) (R205). -/
def acsNew (pm : Vector (BitVec 16) 16) (q s0 s1 : Nat) : Vector (BitVec 16) 16 :=
  Vector.ofFn fun t : Fin 16 => storeMetric q (Config.metricOverflow pm q s0 s1 t.val) (acsMetric pm q s0 s1 t.val)

/-- `word` of ACS(PM, s0, s1): bit t is the decision of new state t (R205). -/
def acsWord (pm : Vector (BitVec 16) 16) (q s0 s1 : Nat) : BitVec 16 :=
  BitVec.ofNat 16 (((List.range 16).map fun t => (acsDecision pm q s0 s1 t).toNat <<< t).foldl (· + ·) 0)

/-- Some new metric does not fit sixteen bits (notes/assumptions/6.md). -/
def acsOverflows (pm : Vector (BitVec 16) 16) (q s0 s1 : Nat) : Bool :=
  (List.range 16).any fun t => decide (acsMetric pm q s0 s1 t ≥ 65536)

/-- One trellis step with the pair (s0, s1), its checks passed (R204). -/
def convStepState (s0 s1 : Nat) (s : State) : State :=
  { s with
    dec := s.dec.setIfInBounds s.convDp (acsWord s.pm s.params.convQ s0 s1)
    convDp := s.convDp + 1
    pm := acsNew s.pm s.params.convQ s0 s1
    freeDraws := if acsOverflows s.pm s.params.convQ s0 s1 then s.freeDraws + 1 else s.freeDraws }

/-- CONV_STEP s0, s1 (R204): operand, then sequence, then room for the decision. -/
def execConvStep (s0 s1 : BitVec 8) (s : State) : Host.Outcome State Fault Refusal :=
  if convStepBadOperand s.params s0 s1 then .next (raiseFault .operand s)
  else if !s.convStarted then .next (raiseFault .sequence s)
  else if s.convDp = Config.convMaxSteps then .next (raiseFault .decisionFull s)
  else .next (setResult .ok 0 (convStepState s0.toNat s1.toNat s))

/-- The chainback walk (R207): `n` bits still to read, `dp` decisions left, the trellis state, and the bits read so
far, which come last bit first. -/
def chainback (dec : Vector (BitVec 16) 180) : Nat → Nat → Nat → List Bool → List Bool
  | 0, _, _, acc => acc
  | n + 1, dp, state, acc =>
    let b := (dec.getD (dp - 1) 0).getLsbD state
    chainback dec n (dp - 1) ((b.toNat <<< 3) ||| (state >>> 1)) (b :: acc)

/-- CONV_CHAINBACK N (R207). -/
def execConvChainback (n : BitVec 16) (s : State) : Host.Outcome State Fault Refusal :=
  if convChainbackBadOperand n then .next (raiseFault .operand s)
  else if !s.convStarted then .next (raiseFault .sequence s)
  else if n.toNat > s.convDp then .next (raiseFault .chainbackRange s)
  else
    .next (setResult .ok 0
      (out (chainback s.dec n.toNat s.convDp 0 []) { s with convDp := s.convDp - n.toNat }))

end Sys2Proof.Machine
end

