-- ==== Sys2Proof/Machine/FrameQueue.lean ====
section
/-! DEFINITION. The bounded frame queue (41_frame_queue.md). -/

namespace Sys2Proof.Machine

/-- Q_USED: the bytes QDATA holds (R30). -/
def State.qUsed (s : State) : Nat := s.qdata.length

/-- Counts the records of a byte sequence of which the first `skip` bytes are payload (R30, R110). -/
def countRecords : Nat → List Byte → Nat
  | _, [] => 0
  | 0, n :: rest => 1 + countRecords n.toNat rest
  | skip + 1, _ :: rest => countRecords skip rest

/-- Q_RECORDS: the number of records in QDATA (R30). -/
def State.qRecords (s : State) : Nat := countRecords 0 s.qdata

/-- A record: its length byte and its payload (R110). -/
def record (len : BitVec 8) (payload : List Byte) : List Byte := len :: payload

/-- Q_PUSH len (R111): all or nothing. -/
def execQPush (len : BitVec 8) (s : State) : Host.Outcome State Fault Refusal :=
  if qPushBadOperand len then .next (raiseFault .operand s)
  else if s.qUsed + 1 + len.toNat > s.params.qCap then .next (setResult .qFull 0 s)
  else .next (setResult .ok 0 { s with qdata := s.qdata ++ record len (inputBytes len.toNat s) })

/-- Q_POP (R112): the oldest record's payload, without its length byte. -/
def execQPop (s : State) : Host.Outcome State Fault Refusal :=
  match s.qdata with
  | [] => .next (setResult .qEmpty 0 (out [] s))
  | n :: rest =>
    .next (setResult .ok 0 (outBytes (rest.take n.toNat) { s with qdata := rest.drop n.toNat }))

/-- Q_CLEAR (R113). -/
def execQClear (s : State) : Host.Outcome State Fault Refusal := .next (setResult .ok 0 (clearQueue s))

end Sys2Proof.Machine
end

