-- ==== Sys2Proof/Machine/Golay.lean ====
section
/-! DEFINITION. The Golay (20,8,7) code (43_golay.md). Its numbers are natural numbers read as GF(2)
polynomials, bit b the coefficient of x^b (R10, R160). The code's definition is the spec's, which it marks as
from general knowledge (notes/assumptions/9.md). -/

namespace Sys2Proof.Machine

/-- g(x) = x^11 + x^10 + x^6 + x^5 + x^4 + x^2 + 1 (R160). -/
def golayG : Nat := 0xC75

/-- Long division by g(x): clears bits 11 + k - 1 down to 11 of `p`. -/
def golayDivide : Nat → Nat → Nat
  | 0, p => p
  | k + 1, p => golayDivide k (if p.testBit (11 + k) then p ^^^ (golayG <<< k) else p)

/-- `p mod g` for a number of at most 19 bits (R160). -/
def golayMod (p : Nat) : Nat := golayDivide 8 p

/-- The number of 1 bits among the low `n` bits of `v` (R10). -/
def popcount : Nat → Nat → Nat
  | 0, _ => 0
  | n + 1, v => (v.testBit n).toNat + popcount n v

/-- W19 of a data byte: the 8 data bits, then the 11 check bits (R161). -/
def golayW19 (v : Nat) : Nat := (v <<< 11) ||| golayMod (v <<< 11)

/-- W20: W19 and the even parity bit (R161). -/
def golayEncode (v : Nat) : Nat := (golayW19 v <<< 1) ||| (popcount 19 (golayW19 v) % 2)

/-- The low `n` bits of `v`, bit n - 1 first (R163). -/
def natBits (n v : Nat) : List Bool := (List.range n).map fun j => v.testBit (n - 1 - j)

/-- `code19(b0, b1, b2)`: the stream bits d[0..18]; d[19] is dropped (R162). -/
def golayCode19 (b0 b1 b2 : Byte) : Nat := (b0.toNat <<< 11) ||| (b1.toNat <<< 3) ||| (b2.toNat >>> 5)

/-- The error patterns of weight 1 over the low `n` bits. -/
def golaySingles (n : Nat) : List Nat := (List.range n).map fun i => 2 ^ i

/-- The error patterns of weight 2 over the low `n` bits. -/
def golayPairs (n : Nat) : List Nat := (List.range n).flatMap fun i => (golaySingles i).map fun e => 2 ^ i + e

/-- The error patterns of weight 3 over the low `n` bits. -/
def golayTriples (n : Nat) : List Nat := (List.range n).flatMap fun i => (golayPairs i).map fun e => 2 ^ i + e

/-- The 1160 numbers below 2^19 with at most 3 one bits (R162). -/
def golayPatterns : List Nat := 0 :: (golaySingles 19 ++ golayPairs 19 ++ golayTriples 19)

/-- GOLAY_ERR(s): the unique e with popcount(e) <= 3, e < 2^19 and e mod g = s, if there is one (R162). -/
def golayErr (s : Nat) : Option Nat := golayPatterns.find? fun e => golayMod e == s

/-- Correct a 19-bit word: the result code, the number of bits corrected and the word (R164). -/
def golayCorrect (c : Nat) : ResultCode × Nat × Nat :=
  if golayMod c = 0 then (.clean, 0, c)
  else
    match golayErr (golayMod c) with
    | some e => (.corrected, popcount 19 e, c ^^^ e)
    | none => (.uncorrectable, 0, c)

/-- The received 19-bit word in IBUF (R164). -/
def golayInput (s : State) : Nat := golayCode19 (s.ibuf.read 0) (s.ibuf.read 1) (s.ibuf.read 2)

/-- GOLAY_ENC (R163). -/
def execGolayEnc (s : State) : Host.Outcome State Fault Refusal :=
  .next (setResult .ok 0 (out (natBits 20 (golayEncode (s.ibuf.read 0).toNat)) s))

/-- GOLAY_DEC (R164): the data byte, and the number of bits corrected in AUX. -/
def execGolayDec (s : State) : Host.Outcome State Fault Refusal :=
  .next (setResult (golayCorrect (golayInput s)).1 (BitVec.ofNat 8 (golayCorrect (golayInput s)).2.1)
    (outBytes [BitVec.ofNat 8 ((golayCorrect (golayInput s)).2.2 >>> 11)] s))

end Sys2Proof.Machine
end

