-- ==== Sys2Proof/Machine/JitterBuffer.lean ====
section
/-! DEFINITION. The jitter and reorder buffer (46_jitter_buffer.md). -/

namespace Sys2Proof.Machine

/-- HEAD_SEQ (R230). -/
def State.jbHeadSeq (s : State) : Nat := (s.jbSeq0 + s.jbH) % s.params.jbSeqMod

/-- JB_RUNNING, derived (R231). -/
def State.jbRunning (s : State) : Bool := s.jbArmed && decide (s.jbElapsed ≥ s.params.jbDelayMs)

/-- JB_DUE, meaningful while JB_RUNNING (R231). -/
def State.jbDue (s : State) : Nat := (s.jbElapsed - s.params.jbDelayMs) / s.params.jbBlockMs

/-- JB_SLOT[i]; the empty list is an empty slot (R31). -/
def jbSlot (s : State) (i : Nat) : List Byte := s.jbSlots.getD i []

/-- The index of the head slot (R230). -/
def jbHeadIndex (s : State) : Nat := s.jbH % s.params.jbSlots

/-- The largest value of JB_H and JB_ELAPSED: 2^32 - 1 (R31). -/
def jbCounterMax : Nat := 4294967295

/-- JB_RESET (R232). -/
def execJbReset (s : State) : Host.Outcome State Fault Refusal := .next (setResult .ok 0 (clearJitter s))

/-- `seq0` of R233: the first frame after a reset anchors the window. -/
def jbAnchor (seq : Nat) (s : State) : Nat := if s.jbArmed then s.jbSeq0 else seq

/-- `d` of R233: the distance of `seq` from the head, mod JB_SEQ_MOD. -/
def jbDistance (seq : Nat) (s : State) : Nat :=
  subMod seq ((jbAnchor seq s + s.jbH) % s.params.jbSeqMod) s.params.jbSeqMod

/-- `i` of R233: the index of the slot a frame at distance `d` goes to. -/
def jbTarget (d : Nat) (s : State) : Nat := (s.jbH + d) % s.params.jbSlots

/-- A frame stored in slot `i`; the first one anchors the window and starts the clock (R233). -/
def jbStore (i seq : Nat) (frame : List Byte) (s : State) : State :=
  let stored := { s with jbSlots := s.jbSlots.set i frame }
  if s.jbArmed then stored else { stored with jbSeq0 := seq, jbArmed := true, jbElapsed := 0 }

/-- JB_ADD len, seq (R233). -/
def execJbAdd (len : BitVec 8) (seq : BitVec 16) (s : State) : Host.Outcome State Fault Refusal :=
  if jbAddBadOperand s.params len seq then .next (raiseFault .operand s)
  else if jbDistance seq.toNat s ≥ s.params.jbSlots then .next (setResult .jbOutOfWindow 0 s)
  else if jbSlot s (jbTarget (jbDistance seq.toNat s) s) ≠ [] then .next (setResult .jbDuplicate 0 s)
  else
    .next (setResult .ok 0
      (jbStore (jbTarget (jbDistance seq.toNat s) s) seq.toNat (inputBytes len.toNat s) s))

/-- The head slot held a frame: it is delivered, remembered and its slot emptied (R234). -/
def jbDeliver (s : State) : State :=
  setResult .jbData 0
    (outBytes (jbSlot s (jbHeadIndex s))
      { s with
        jbH := s.jbH + 1
        jbLast := jbSlot s (jbHeadIndex s)
        jbLastValid := true
        jbRepeats := 0
        jbSlots := s.jbSlots.set (jbHeadIndex s) [] })

/-- The head slot was empty and the last delivered frame is repeated (R234). -/
def jbRepeatLast (s : State) : State :=
  setResult .jbRepeat 0 (outBytes s.jbLast { s with jbH := s.jbH + 1, jbRepeats := s.jbRepeats + 1 })

/-- The head slot was empty and no repeat is allowed (R234). -/
def jbMiss (s : State) : State := setResult .jbMissing 0 (out [] { s with jbH := s.jbH + 1 })

/-- JB_GET (R234). -/
def execJbGet (s : State) : Host.Outcome State Fault Refusal :=
  if !s.jbRunning || decide (s.jbH > s.jbDue) then .next (setResult .jbNoData 0 (out [] s))
  else if s.jbH = jbCounterMax then .next (raiseFault .counterLimit s)
  else if jbSlot s (jbHeadIndex s) ≠ [] then .next (jbDeliver s)
  else if s.jbLastValid && decide (s.jbRepeats < s.params.jbRepeatLimit) then .next (jbRepeatLast s)
  else .next (jbMiss s)

/-- JB_CLOCK ms (R235): time counts only while armed, and saturates. -/
def execJbClock (ms : BitVec 16) (s : State) : Host.Outcome State Fault Refusal :=
  .next (setResult .ok 0
    (if s.jbArmed then { s with jbElapsed := min (s.jbElapsed + ms.toNat) jbCounterMax } else s))

end Sys2Proof.Machine
end

