-- ==== Sys2Proof/Machine/System.lean ====
section
/-! DEFINITION. The system commands (40_system.md). -/

namespace Sys2Proof.Machine

/-- NOP (R100). -/
def execNop (s : State) : Host.Outcome State Fault Refusal := .next (setResult .ok 0 s)

/-- CLR_ALL (R101): the queue, the jitter buffer and the decoder cleared; IBUF, OBUF, OLEN, CMD_LAST, FAULT and
FAULT_CODE kept. -/
def execClrAll (s : State) : Host.Outcome State Fault Refusal :=
  .next (setResult .ok 0 (clearDecoder (clearJitter (clearQueue s))))

end Sys2Proof.Machine
end

