-- ==== Sys2Proof/Machine/Dispatch.lean ====
section
/-! DEFINITION. The dispatch: one arm per command, each one call of that command's meaning (30_encoding.md R73). -/

namespace Sys2Proof.Machine

/-- The execution of a decoded command (R58, R73). -/
def exec (i : Instr) (s : State) : Host.Outcome State Fault Refusal :=
  match i with
  | .nop => Sys2Proof.Machine.execNop s
  | .clrAll => Sys2Proof.Machine.execClrAll s
  | .qPush len => Sys2Proof.Machine.execQPush len s
  | .qPop => Sys2Proof.Machine.execQPop s
  | .qClear => Sys2Proof.Machine.execQClear s
  | .h15113aEnc => Sys2Proof.Machine.execH15113aEnc s
  | .h15113aDec => Sys2Proof.Machine.execH15113aDec s
  | .h15113bEnc => Sys2Proof.Machine.execH15113bEnc s
  | .h15113bDec => Sys2Proof.Machine.execH15113bDec s
  | .h1393Enc => Sys2Proof.Machine.execH1393Enc s
  | .h1393Dec => Sys2Proof.Machine.execH1393Dec s
  | .h17123Enc => Sys2Proof.Machine.execH17123Enc s
  | .h17123Dec => Sys2Proof.Machine.execH17123Dec s
  | .golayEnc => Sys2Proof.Machine.execGolayEnc s
  | .golayDec => Sys2Proof.Machine.execGolayDec s
  | .bptcEnc => Sys2Proof.Machine.execBptcEnc s
  | .bptcDec => Sys2Proof.Machine.execBptcDec s
  | .convEnc n => Sys2Proof.Machine.execConvEnc n s
  | .convStart => Sys2Proof.Machine.execConvStart s
  | .convStep s0 s1 => Sys2Proof.Machine.execConvStep s0 s1 s
  | .convChainback n => Sys2Proof.Machine.execConvChainback n s
  | .jbReset => Sys2Proof.Machine.execJbReset s
  | .jbAdd len seq => Sys2Proof.Machine.execJbAdd len seq s
  | .jbGet => Sys2Proof.Machine.execJbGet s
  | .jbClock ms => Sys2Proof.Machine.execJbClock ms s

end Sys2Proof.Machine
end

