-- ==== Sys2Proof/Machine/Bus.lean ====
section
/-! DEFINITION. The host interface: the register map (10_state.md R23), host reads and writes
(20_memory.md R53 to R59, 60_exceptions.md R303), the execution of a command word written to CMD
(10_state.md R22), and the hardware reset (70_reset_and_hazards.md R330). -/

namespace Sys2Proof.Machine

/-- The fault code of a failed decode check (R74). -/
def decodeErrCode : DecodeError → ErrCode
  | .illegalOp => .illegalOp
  | .reservedField => .reservedField

/-- A word written to CMD: CMD_LAST takes it, then the command it names executes (R22, R74). -/
def runCommand (cw : Word) (s : State) : Host.Outcome State Fault Refusal :=
  match decode cw with
  | .ok i => exec i { s with cmdLast := cw }
  | .error e => .next (raiseFault (decodeErrCode e) { s with cmdLast := cw })

/-- CMD, host address 0x000: CMD_LAST (R22). -/
def regCmd (s : State) : Word := s.cmdLast

/-- RESULT, host address 0x004: AUX, FAULT_CODE, seven 0 bits, FAULT, RESULT (R23). -/
def regResult (s : State) : Word :=
  s.aux ++ s.faultCode.toByte ++ 0#7 ++ BitVec.ofBool s.fault ++ s.result.toByte

/-- OLEN, host address 0x008 (R23). -/
def regOlen (s : State) : Word := 0#16 ++ BitVec.ofNat 16 s.olen

/-- QSTAT, host address 0x00C: Q_RECORDS, Q_USED (R23). -/
def regQstat (s : State) : Word := BitVec.ofNat 16 s.qRecords ++ BitVec.ofNat 16 s.qUsed

/-- JBSTAT, host address 0x010: JB_HEAD_SEQ, JB_REPEATS, five 0 bits, JB_LAST_VALID, JB_RUNNING, JB_ARMED (R23). -/
def regJbstat (s : State) : Word :=
  BitVec.ofNat 16 s.jbHeadSeq ++ BitVec.ofNat 8 s.jbRepeats ++ 0#5 ++ BitVec.ofBool s.jbLastValid ++
    BitVec.ofBool s.jbRunning ++ BitVec.ofBool s.jbArmed

/-- JBTIME, host address 0x014: JB_ELAPSED (R23). -/
def regJbtime (s : State) : Word := BitVec.ofNat 32 s.jbElapsed

/-- JBHEAD, host address 0x018: JB_H (R23). -/
def regJbhead (s : State) : Word := BitVec.ofNat 32 s.jbH

/-- CONVSTAT, host address 0x01C: CONV_DP in bits 15:8, CONV_STARTED in bit 0 (R23). -/
def regConvstat (s : State) : Word := 0#16 ++ BitVec.ofNat 8 s.convDp ++ 0#7 ++ BitVec.ofBool s.convStarted

/-- CFG0, host address 0x020: JB_BLOCK_BYTES, JB_SLOTS, Q_CAP (R23, R27). -/
def regCfg0 (s : State) : Word :=
  BitVec.ofNat 8 s.params.jbBlockBytes ++ BitVec.ofNat 8 s.params.jbSlots ++ BitVec.ofNat 16 s.params.qCap

/-- CFG1, host address 0x024: JB_DELAY_MS, JB_BLOCK_MS (R23, R27). -/
def regCfg1 (s : State) : Word := BitVec.ofNat 16 s.params.jbDelayMs ++ BitVec.ofNat 16 s.params.jbBlockMs

/-- CFG2, host address 0x028: CONV_Q, JB_REPEAT_LIMIT, JB_SEQ_MOD (R23, R27). -/
def regCfg2 (s : State) : Word :=
  BitVec.ofNat 8 s.params.convQ ++ BitVec.ofNat 8 s.params.jbRepeatLimit ++ BitVec.ofNat 16 s.params.jbSeqMod

/-- The bit of BPTC_ORDER (R6). -/
def passOrderBit : PassOrder → BitVec 1
  | .columnsThenRows => 0
  | .rowsThenColumns => 1

/-- CFG3, host address 0x02C: BPTC_ORDER in bit 8, BPTC_MAX_PASSES in bits 7:0 (R23, R27). -/
def regCfg3 (s : State) : Word :=
  0#23 ++ passOrderBit s.params.bptcOrder ++ BitVec.ofNat 8 Config.bptcMaxPasses

/-- The register map (R23): the word at a block-relative register address. Every other address is unmapped (R55),
or misaligned for a register (R56). -/
def registerAt (s : State) (a : Nat) : Option Word :=
  match a with
  | 0x000 => some (regCmd s)
  | 0x004 => some (regResult s)
  | 0x008 => some (regOlen s)
  | 0x00C => some (regQstat s)
  | 0x010 => some (regJbstat s)
  | 0x014 => some (regJbtime s)
  | 0x018 => some (regJbhead s)
  | 0x01C => some (regConvstat s)
  | 0x020 => some (regCfg0 s)
  | 0x024 => some (regCfg1 s)
  | 0x028 => some (regCfg2 s)
  | 0x02C => some (regCfg3 s)
  | _ => none

/-- A block-relative address in the IBUF window 0x100..0x1FF (R53). -/
def inIbuf (a : Nat) : Bool := decide (0x100 ≤ a) && decide (a < 0x200)

/-- A block-relative address in the OBUF window 0x200..0x2FF (R54). -/
def inObuf (a : Nat) : Bool := decide (0x200 ≤ a) && decide (a < 0x300)

/-- What a host read of `width` bits at block-relative address `a` returns; `none` is a bus fault
(R53 to R56, R303). -/
def busRead (s : State) (a width : Nat) : Option Word :=
  if width = 8 ∧ inIbuf a then some (0#24 ++ s.ibuf.read (a - 0x100))
  else if width = 8 ∧ inObuf a then some (0#24 ++ s.obuf.read (a - 0x200))
  else if width = 32 then registerAt s a
  else none

/-- The host gets a value back (notes/assumptions/2.md). -/
def reply (v : Word) (s : State) : State := { s with replies := s.replies ++ [v] }

/-- A host read (R56, R59, R303): a bus fault returns 0. -/
def hostRead (a width : Nat) (s : State) : State :=
  match busRead s a width with
  | some v => reply v s
  | none => reply 0 (busFault s)

/-- A host write (R22, R53, R54, R56, R303): a command, an IBUF byte, or a bus fault that changes nothing else. -/
def hostWrite (a width : Nat) (v : Word) (s : State) : Host.Outcome State Fault Refusal :=
  if width = 32 ∧ a = 0x000 then runCommand v s
  else if width = 8 ∧ inIbuf a then .next { s with ibuf := s.ibuf.write (a - 0x100) (v.setWidth 8) }
  else .next (busFault s)

/-- The block-relative address of a system address, if it lies in the block's window (R35, R60). -/
def toBlockAddr (p : Params) (addr : Nat) : Option Nat :=
  if p.blockBase ≤ addr ∧ addr < p.blockBase + Config.windowBytes then some (addr - p.blockBase) else none

/-- The hardware reset of a running instance: every piece of the spec's state at its reset value, the instance's
parameters kept (R330, R331). The model's own fields go on (notes/assumptions/5.md). -/
def hardwareReset (s : State) : State :=
  { State.init s.params with inbox := s.inbox, replies := s.replies, freeDraws := s.freeDraws }

/-- One host event (R50). An access outside the block's window is not the block's (R65,
notes/assumptions/4.md). -/
def hostEvent (e : HostEvent) (s : State) : Host.Outcome State Fault Refusal :=
  match e with
  | .read addr width =>
    match toBlockAddr s.params addr with
    | some a => .next (hostRead a width s)
    | none => .next s
  | .write addr width value =>
    match toBlockAddr s.params addr with
    | some a => hostWrite a width value s
    | none => .next s
  | .reset => .next (hardwareReset s)

/-- Take the next host event, or idle when there is none (R50, R314, notes/assumptions/1.md). -/
def takeEvent (s : State) : Host.Outcome State Fault Refusal :=
  match s.inbox with
  | [] => .next s
  | e :: rest => hostEvent e { s with inbox := rest }

/-- `s` with a 32-bit host write of the command word `w` to CMD as its next host event (R22). -/
def pushCommand (w : Word) (s : State) : State :=
  { s with inbox := .write s.params.blockBase 32 w :: s.inbox }

end Sys2Proof.Machine
end

