-- ==== Sys2Proof/Machine/Step.lean ====
section
/-! DEFINITION. One step of the block: one host event, taken to its end (20_memory.md R50, R58). -/

namespace Sys2Proof.Machine

/-- One step (R50, R58). -/
def step (s : State) : Host.Outcome State Fault Refusal := takeEvent s

/-- `s` with the command word made of the low `nbits` bits of `w` written next to CMD. The block fetches nothing
(R21, R64): its next instruction is the host's next write of CMD. -/
def State.withFetchWord (s : State) (nbits w : Nat) : State := pushCommand (BitVec.ofNat 32 (w % 2 ^ nbits)) s

end Sys2Proof.Machine
end

