-- ==== Sys2Proof/Machine/Program.lean ====
section
/-! DEFINITION. The host's side of a program: the lines of the spec's command syntax and its pseudo-instructions, and
the host accesses they stand for (30_encoding.md R77, R78). A line is given with its operands as numbers. -/

namespace Sys2Proof.Machine

/-- A line of the command syntax (R77, R78). -/
inductive Line where
  /-- A command without operands. -/
  | bare (i : Instr)
  /-- `Q_PUSH len`. -/
  | qPush (len : Nat)
  /-- `CONV_ENC n`. -/
  | convEnc (n : Nat)
  /-- `CONV_STEP s0, s1`. -/
  | convStep (s0 s1 : Nat)
  /-- `CONV_CHAINBACK n`. -/
  | convChainback (n : Nat)
  /-- `JB_ADD len, seq`. -/
  | jbAdd (len seq : Nat)
  /-- `JB_CLOCK ms`. -/
  | jbClock (ms : Nat)
  /-- `IB a: b0 b1 ...`, byte writes to IBUF from index a on (notes/assumptions/13.md). -/
  | ib (a : Nat) (bytes : List Nat)
  /-- `RD name`, with the register's address in place of its name (notes/assumptions/13.md). -/
  | rd (a : Nat)
  /-- `RDB a`, a byte read of OBUF[a] (notes/assumptions/13.md). -/
  | rdb (a : Nat)
  /-- `CONV_DECODE n; c[0..2n+7]`. -/
  | convDecode (n : Nat) (c : List Nat)
  /-- `FRAME_PUSH b0 ... b(k-1)`. -/
  | framePush (bytes : List Nat)
  /-- `FRAME_ADD seq; b0 ... b(k-1)`. -/
  | frameAdd (seq : Nat) (bytes : List Nat)
deriving DecidableEq, Repr

/-- A command whose syntax has no operand (R71 format F0, R77). -/
def isBare (i : Instr) : Bool :=
  match i with
  | .qPush _ => false
  | .convEnc _ => false
  | .convStep _ _ => false
  | .convChainback _ => false
  | .jbAdd _ _ => false
  | .jbClock _ => false
  | .nop => true
  | .clrAll => true
  | .qPop => true
  | .qClear => true
  | .h15113aEnc => true
  | .h15113aDec => true
  | .h15113bEnc => true
  | .h15113bDec => true
  | .h1393Enc => true
  | .h1393Dec => true
  | .h17123Enc => true
  | .h17123Dec => true
  | .golayEnc => true
  | .golayDec => true
  | .bptcEnc => true
  | .bptcDec => true
  | .convStart => true
  | .jbReset => true
  | .jbGet => true

/-- An operand that does not fit its field is refused, never truncated (R77). -/
def operandField (width v : Nat) : Option (BitVec width) :=
  if v < 2 ^ width then some (BitVec.ofNat width v) else none

/-- The host's write of a command to CMD (R22). -/
def commandWrite (base : Nat) (i : Instr) : HostEvent := .write base 32 (encode i)

/-- Byte writes to IBUF from index `a` on; a value that is no byte is refused (R53, R77). An index past 255 is not
refused: DESIGN CHOICE, notes/assumptions/13.md. -/
def byteWrites (base : Nat) : Nat → List Nat → Option (List HostEvent)
  | _, [] => some []
  | a, v :: rest =>
    match operandField 8 v, byteWrites base (a + 1) rest with
    | some b, some es => some (.write (base + 0x100 + a) 8 (b.setWidth 32) :: es)
    | _, _ => none

/-- `Q_PUSH len` (R77). -/
def lineQPush (base len : Nat) : Option (List HostEvent) :=
  (operandField 8 len).map fun l => [commandWrite base (.qPush l)]

/-- `JB_ADD len, seq` (R77). -/
def lineJbAdd (base len seq : Nat) : Option (List HostEvent) :=
  match operandField 8 len, operandField 16 seq with
  | some l, some q => some [commandWrite base (.jbAdd l q)]
  | _, _ => none

/-- `CONV_CHAINBACK n` (R77). -/
def lineConvChainback (base n : Nat) : Option (List HostEvent) :=
  (operandField 16 n).map fun v => [commandWrite base (.convChainback v)]

/-- `CONV_STEP c[2i], c[2i+1]` for i = 0, 1, ... (R78). -/
def convSteps (base : Nat) : List Nat → Option (List HostEvent)
  | a :: b :: rest =>
    match operandField 8 a, operandField 8 b, convSteps base rest with
    | some s0, some s1, some es => some (commandWrite base (.convStep s0 s1) :: es)
    | _, _, _ => none
  | [_] => none
  | [] => some []

/-- One list of accesses after another. -/
def thenEvents (a b : Option (List HostEvent)) : Option (List HostEvent) :=
  match a, b with
  | some x, some y => some (x ++ y)
  | _, _ => none

/-- The host accesses of a line for a block at `base`; `none` where the assembler refuses the line (R77, R78).
DESIGN CHOICE, notes/assumptions/13.md: R77 gives `IB a`, `RDB a` and `RD name` no field width, and any number is taken
there. Past index 255, or where no register stands, the line is the plain access at that address. -/
def assemble (base : Nat) (l : Line) : Option (List HostEvent) :=
  match l with
  | .bare i => if isBare i then some [commandWrite base i] else none
  | .qPush len => lineQPush base len
  | .convEnc n => (operandField 16 n).map fun v => [commandWrite base (.convEnc v)]
  | .convStep s0 s1 => convSteps base [s0, s1]
  | .convChainback n => lineConvChainback base n
  | .jbAdd len seq => lineJbAdd base len seq
  | .jbClock ms => (operandField 16 ms).map fun v => [commandWrite base (.jbClock v)]
  | .ib a bytes => byteWrites base a bytes
  | .rd a => some [.read (base + a) 32]
  | .rdb a => some [.read (base + 0x200 + a) 8]
  | .convDecode n c =>
    if 1 ≤ n ∧ n ≤ 176 ∧ c.length = 2 * n + 8 then
      thenEvents (some [commandWrite base .convStart]) (thenEvents (convSteps base c) (lineConvChainback base n))
    else none
  | .framePush bytes => thenEvents (byteWrites base 0 bytes) (lineQPush base bytes.length)
  | .frameAdd seq bytes => thenEvents (byteWrites base 0 bytes) (lineJbAdd base bytes.length seq)

/-- The host accesses of a program, line after line (R77). -/
def assembleAll (base : Nat) : List Line → Option (List HostEvent)
  | [] => some []
  | l :: rest => thenEvents (assemble base l) (assembleAll base rest)

/-- `s` with a program's host accesses as its next host events, if the assembler takes the program
(notes/assumptions/1.md). -/
def State.withProgram (s : State) (p : List Line) : Option State :=
  (assembleAll s.params.blockBase p).map fun es => { s with inbox := es ++ s.inbox }

end Sys2Proof.Machine
end

