-- ==== Sys2Proof/WellFormed.lean ====
section
/-! DEFINITION. Well-formed commands: every operand inside the range its command's rule gives
(check 3 of 30_encoding.md R74). Every command is encodable, since an operand has its field's width. A command
that is not well formed still decodes, and executing it raises ERR_OPERAND. -/

namespace Sys2Proof

/-- The operand ranges of R111, R201, R204, R207 and R233, over the instance's parameters. -/
def Instr.wellFormed (p : Params) : Instr → Bool
  | .nop => true
  | .clrAll => true
  | .qPush len => decide (1 ≤ len.toNat)
  | .qPop => true
  | .qClear => true
  | .h15113aEnc => true
  | .h15113aDec => true
  | .h15113bEnc => true
  | .h15113bDec => true
  | .h1393Enc => true
  | .h1393Dec => true
  | .h17123Enc => true
  | .h17123Dec => true
  | .golayEnc => true
  | .golayDec => true
  | .bptcEnc => true
  | .bptcDec => true
  | .convEnc n => decide (1 ≤ n.toNat) && decide (n.toNat ≤ 1024)
  | .convStart => true
  | .convStep s0 s1 => decide (s0.toNat ≤ p.convQ) && decide (s1.toNat ≤ p.convQ)
  | .convChainback n => decide (1 ≤ n.toNat)
  | .jbReset => true
  | .jbAdd len seq =>
    decide (1 ≤ len.toNat) && decide (len.toNat ≤ p.jbBlockBytes) && decide (seq.toNat < p.jbSeqMod)
  | .jbGet => true
  | .jbClock _ => true

end Sys2Proof
end

