-- ==== Sys2Proof/Safety.lean ====
section
/-! DEFINITION. The terms that claims about the block are stated in: the invariant of every run, what it is for
one part of the state to be unchanged, what it is for OBUF to hold an output, and runs of several commands. -/

namespace Sys2Proof.Machine

/-- QDATA holds whole records only, each of 1..255 payload bytes; the first `skip` bytes are the rest of a payload
(R30, R110). -/
def wholeRecords : Nat → List Byte → Bool
  | 0, [] => true
  | _ + 1, [] => false
  | 0, n :: rest => decide (n.toNat ≠ 0) && wholeRecords n.toNat rest
  | skip + 1, _ :: rest => wholeRecords skip rest

/-- What holds in every state a run reaches: the ranges that 10_state.md and 00_scope.md give each piece of
state, and the relations between them that the rules keep. -/
structure State.Inv (s : State) : Prop where
  /-- R8, R331. -/
  params_legal : s.params.legal = true
  /-- IBUF is in canonical form. -/
  ibuf_wf : s.ibuf.wf = true
  /-- R28: IBUF is 256 bytes. -/
  ibuf_inBuffer : s.ibuf.inBuffer = true
  /-- OBUF is in canonical form. -/
  obuf_wf : s.obuf.wf = true
  /-- R29: OBUF is 256 bytes. -/
  obuf_inBuffer : s.obuf.inBuffer = true
  /-- R23: OLEN is 0..2048. -/
  olen_le : s.olen ≤ 2048
  /-- R29: OBUF is 0 past OLEN. -/
  obuf_tail : ∀ i, s.olen ≤ i → s.obuf.bit i = false
  /-- R30. -/
  queue_whole : wholeRecords 0 s.qdata = true
  /-- R30, R115. -/
  queue_fits : s.qUsed ≤ s.params.qCap
  /-- R31: JB_SLOTS slots. -/
  slots_length : s.jbSlots.length = s.params.jbSlots
  /-- R31: a slot's len is 0..JB_BLOCK_BYTES. -/
  slots_fit : ∀ f ∈ s.jbSlots, f.length ≤ s.params.jbBlockBytes
  /-- R31: JB_H is 0..2^32-1. -/
  head_le : s.jbH ≤ 4294967295
  /-- R31: JB_SEQ0 is 0..JB_SEQ_MOD-1. -/
  seq0_lt : s.jbSeq0 < s.params.jbSeqMod
  /-- R31: JB_ELAPSED is 32 bits. -/
  elapsed_le : s.jbElapsed ≤ 4294967295
  /-- R31: JB_LAST's len is 0..JB_BLOCK_BYTES. -/
  last_fits : s.jbLast.length ≤ s.params.jbBlockBytes
  /-- R234: a held last frame is one that was delivered, so it is not empty. -/
  last_nonempty : s.jbLastValid = true → s.jbLast ≠ []
  /-- R234: repeats never pass the limit. -/
  repeats_le : s.jbRepeats ≤ s.params.jbRepeatLimit
  /-- R232, R233: before the first frame is accepted the jitter buffer is as after its reset. -/
  disarmed : s.jbArmed = false →
    s.jbH = 0 ∧ s.jbElapsed = 0 ∧ s.jbLastValid = false ∧ s.jbRepeats = 0 ∧ ∀ f ∈ s.jbSlots, f = []
  /-- R32: CONV_DP is 0..180. -/
  dp_le : s.convDp ≤ 180
  /-- R101, R203, R204: no decision is stored before the decoder is started. -/
  not_started : s.convStarted = false → s.convDp = 0
  /-- R32, R101, R203: before the decoder is started every path metric is as after reset. -/
  metrics_reset : s.convStarted = false → ∀ i < 16, s.pm.getD i 0 = 0
  /-- R26: FAULT_CODE names a fault exactly when FAULT is set. -/
  fault_code : s.fault = true ↔ s.faultCode ≠ .noFault
  /-- R300: a faulted command set FAULT. -/
  faulted_result : s.result = .faulted → s.fault = true

/-- The host side is unchanged: parameters, CMD_LAST, the pending events and the values returned. -/
def SameHost (s t : State) : Prop :=
  t.params = s.params ∧ t.cmdLast = s.cmdLast ∧ t.inbox = s.inbox ∧ t.replies = s.replies

/-- Every byte of IBUF is unchanged. -/
def SameInput (s t : State) : Prop := ∀ a, t.ibuf.read a = s.ibuf.read a

/-- OLEN and every byte of OBUF are unchanged. -/
def SameOutput (s t : State) : Prop := t.olen = s.olen ∧ ∀ a, t.obuf.read a = s.obuf.read a

/-- FAULT and FAULT_CODE are unchanged. -/
def SameFaults (s t : State) : Prop := t.fault = s.fault ∧ t.faultCode = s.faultCode

/-- The frame queue is unchanged. -/
def SameQueue (s t : State) : Prop := t.qdata = s.qdata

/-- The jitter buffer's eight pieces of state are unchanged. -/
def SameJitter (s t : State) : Prop :=
  t.jbSlots = s.jbSlots ∧ t.jbH = s.jbH ∧ t.jbSeq0 = s.jbSeq0 ∧ t.jbArmed = s.jbArmed ∧
  t.jbElapsed = s.jbElapsed ∧ t.jbLast = s.jbLast ∧ t.jbLastValid = s.jbLastValid ∧ t.jbRepeats = s.jbRepeats

/-- The convolutional decoder is unchanged, and no free value was drawn. -/
def SameDecoder (s t : State) : Prop :=
  t.convStarted = s.convStarted ∧ t.convDp = s.convDp ∧ t.pm = s.pm ∧ t.dec = s.dec ∧ t.freeDraws = s.freeDraws

/-- The three units with state of their own are unchanged. -/
def SameUnits (s t : State) : Prop := SameQueue s t ∧ SameJitter s t ∧ SameDecoder s t

/-- What a codec command leaves alone (R145): everything but OBUF, OLEN, RESULT and AUX. -/
def CodecFrame (s t : State) : Prop := SameHost s t ∧ SameInput s t ∧ SameFaults s t ∧ SameUnits s t

/-- RESULT and AUX hold `r` and `a`. -/
def Reports (t : State) (r : ResultCode) (a : Nat) : Prop := t.result = r ∧ t.aux = BitVec.ofNat 8 a

/-- OBUF and OLEN hold an output of `n` bits whose bit i is `d i`, and every later bit of OBUF is 0 (R11, R29). -/
def OutputIs (t : State) (n : Nat) (d : Nat → Bool) : Prop :=
  t.olen = n ∧ ∀ i, t.obuf.bit i = (decide (i < n) && decide (i < 2048) && d i)

/-- `t` is `s` after the fault `e` of a command (R300): RESULT, AUX and the sticky record, nothing else. -/
def FaultsWith (e : ErrCode) (s t : State) : Prop :=
  Reports t .faulted 0 ∧ t.fault = true ∧ t.faultCode = (if s.fault then s.faultCode else e) ∧
  SameHost s t ∧ SameInput s t ∧ SameOutput s t ∧ SameUnits s t

/-- Execute commands one after another, stopping where one stops. -/
def execAll : List Instr → State → Host.Outcome State Fault Refusal
  | [], s => .next s
  | i :: rest, s =>
    match exec i s with
    | .next t => execAll rest t
    | .fault r => .fault r
    | .refused r => .refused r

end Sys2Proof.Machine
end

