-- ==== Sys2Proof/Certificates/Slice0/Obligations.lean ====
section
/-! DEFINITION. The statements for the provers, and the spec's own formulas they are stated with, written here
again from spec/ and not taken from the model's meanings. -/

namespace Sys2Proof.Claims

open Sys2Proof.Machine

/-! ### Formats (30_encoding.md R71) -/

/-- `op` is the opcode of the F0 command `i`: bits 31:8 must be 0 (R71, R76). -/
def IsF0 (op : BitVec 8) (i : Instr) : Prop :=
  ∀ cw : Word, cw.extractLsb' 0 8 = op →
    decode cw = if cw.extractLsb' 8 24 = 0 then .ok i else .error .reservedField

/-- `op` is the opcode of an FL command: bits 31:16 must be 0, bits 15:8 are the length. -/
def IsFL (op : BitVec 8) (mk : BitVec 8 → Instr) : Prop :=
  ∀ cw : Word, cw.extractLsb' 0 8 = op →
    decode cw = if cw.extractLsb' 16 16 = 0 then .ok (mk (cw.extractLsb' 8 8)) else .error .reservedField

/-- `op` is the opcode of an FN command: bits 15:8 must be 0, bits 31:16 are the number. -/
def IsFN (op : BitVec 8) (mk : BitVec 16 → Instr) : Prop :=
  ∀ cw : Word, cw.extractLsb' 0 8 = op →
    decode cw = if cw.extractLsb' 8 8 = 0 then .ok (mk (cw.extractLsb' 16 16)) else .error .reservedField

/-- `op` is the opcode of an FS command: bits 15:8 must be 0, bits 23:16 are S0 and bits 31:24 are S1. -/
def IsFS (op : BitVec 8) (mk : BitVec 8 → BitVec 8 → Instr) : Prop :=
  ∀ cw : Word, cw.extractLsb' 0 8 = op →
    decode cw = if cw.extractLsb' 8 8 = 0 then .ok (mk (cw.extractLsb' 16 8) (cw.extractLsb' 24 8))
      else .error .reservedField

/-- `op` is the opcode of an FLS command: bits 15:8 are the length, bits 31:16 the sequence number. -/
def IsFLS (op : BitVec 8) (mk : BitVec 8 → BitVec 16 → Instr) : Prop :=
  ∀ cw : Word, cw.extractLsb' 0 8 = op → decode cw = .ok (mk (cw.extractLsb' 8 8) (cw.extractLsb' 16 16))

/-- The opcodes of the map of R73. -/
def opcodes : List Nat :=
  [0x00, 0x01, 0x10, 0x11, 0x12] ++ [0x20, 0x21, 0x22, 0x23, 0x24, 0x25, 0x26, 0x27, 0x28, 0x29] ++
  [0x30, 0x31] ++ [0x40, 0x41, 0x42, 0x43] ++ [0x50, 0x51, 0x52, 0x53]

/-- A word with an OP of the map and a nonzero reserved field (R71, R76). -/
def NonzeroReserved (w : Word) : Prop :=
  (w.extractLsb' 0 8 = 0x10 ∧ w.extractLsb' 16 16 ≠ 0) ∨
  ((w.extractLsb' 0 8).toNat ∈ [0x40, 0x42, 0x43, 0x53] ∧ w.extractLsb' 8 8 ≠ 0) ∨
  ((w.extractLsb' 0 8).toNat ∈ opcodes ∧ (w.extractLsb' 0 8).toNat ∉ [0x10, 0x40, 0x42, 0x43, 0x51, 0x53] ∧
    w.extractLsb' 8 24 ≠ 0)

/-- The word that has the given field values at the given lowest bits. -/
def wordOf : List (Nat × Nat) → Nat
  | [] => 0
  | (lo, v) :: rest => v * 2 ^ lo + wordOf rest

/-- A Boolean as a field value. -/
def bit (b : Bool) : Nat := if b then 1 else 0

/-- The next step is a host access, and it leaves the state `t`. -/
def StepsTo (s t : State) : Prop := step s = .next t

/-- The state after the next host event is taken off the list. -/
def taken (s : State) : State := { s with inbox := s.inbox.tail }

/-- The next host event of `s` is `e`. -/
def NextEvent (s : State) (e : HostEvent) : Prop := s.inbox.head? = some e

/-- A 32-bit read of the register at `a` returns `v` and changes nothing else (R23, R59). -/
def RegisterReads (s : State) (a v : Nat) : Prop :=
  NextEvent s (.read (s.params.blockBase + a) 32) →
    StepsTo s { taken s with replies := s.replies ++ [BitVec.ofNat 32 v] }

/-- `t` is `s` after a bus fault: the sticky record and nothing else but the replies (R303). -/
def BusFaulted (s t : State) : Prop :=
  t.fault = true ∧ t.faultCode = (if s.fault then s.faultCode else .bus) ∧
  t.params = s.params ∧ t.cmdLast = s.cmdLast ∧ t.inbox = s.inbox ∧ t.result = s.result ∧ t.aux = s.aux ∧
  SameInput s t ∧ SameOutput s t ∧ SameUnits s t

/-- A read the map allows: a register's aligned 32-bit read, or a byte read of a buffer (R56). -/
def LegalRead (a width : Nat) : Prop :=
  (width = 32 ∧ a < 0x30 ∧ a % 4 = 0) ∨ (width = 8 ∧ 0x100 ≤ a ∧ a < 0x300)

/-- A write the map allows: a 32-bit write of CMD, or a byte write of IBUF (R53, R56, R303). -/
def LegalWrite (a width : Nat) : Prop :=
  (width = 32 ∧ a = 0) ∨ (width = 8 ∧ 0x100 ≤ a ∧ a < 0x200)

/-! ### The command syntax (30_encoding.md R77) -/

/-- A 32-bit host write of a word to CMD. -/
def cmdWrite (base w : Nat) : HostEvent := .write base 32 (BitVec.ofNat 32 w)

/-- Byte writes to IBUF[a], IBUF[a+1], ... -/
def inputWrites (base a : Nat) (bytes : List Nat) : List HostEvent :=
  bytes.zipIdx.map fun p => .write (base + 0x100 + (a + p.2)) 8 (BitVec.ofNat 32 p.1)

/-- The commands without operands, whose word is OP. -/
def bareLines : List (Instr × Nat) :=
  [(.nop, 0x00), (.clrAll, 0x01), (.qPop, 0x11), (.qClear, 0x12), (.h15113aEnc, 0x20), (.h15113aDec, 0x21),
    (.h15113bEnc, 0x22), (.h15113bDec, 0x23), (.h1393Enc, 0x24), (.h1393Dec, 0x25), (.h17123Enc, 0x26),
    (.h17123Dec, 0x27), (.golayEnc, 0x28), (.golayDec, 0x29), (.bptcEnc, 0x30), (.bptcDec, 0x31),
    (.convStart, 0x41), (.jbReset, 0x50), (.jbGet, 0x52)]

/-! ### Hamming codes (42_hamming.md R130) -/

/-- XOR of `d i` over a list of indices. -/
def xorOf (d : Nat → Bool) : List Nat → Bool
  | [] => false
  | i :: rest => d i ^^ xorOf d rest

/-- `syn(d)`: the sum over j of (P_j(d) ^ d[k+j]) << j. -/
def syndromeOf (k : Nat) (eqs : List (List Nat)) (d : Nat → Bool) : Nat :=
  ((List.range eqs.length).map fun j => bit (xorOf d (eqs.getD j []) ^^ d (k + j)) * 2 ^ j).sum

/-- The equation sets of R146. -/
def eqsA : List (List Nat) :=
  [[0, 1, 2, 3, 4, 5, 6], [0, 1, 2, 3, 7, 8, 9], [0, 1, 4, 5, 7, 8, 10], [0, 2, 4, 6, 7, 9, 10]]

/-- The equation sets of R147. -/
def eqsB : List (List Nat) :=
  [[0, 1, 2, 3, 5, 7, 8], [1, 2, 3, 4, 6, 8, 9], [2, 3, 4, 5, 7, 9, 10], [0, 1, 2, 4, 6, 7, 10]]

/-- The equation sets of R148. -/
def eqs13 : List (List Nat) :=
  [[0, 1, 3, 5, 6], [0, 1, 2, 4, 6, 7], [0, 1, 2, 3, 5, 7, 8], [0, 2, 4, 5, 8]]

/-- The equation sets of R149. -/
def eqs17 : List (List Nat) :=
  [[0, 1, 2, 3, 6, 7, 9], [0, 1, 2, 3, 4, 7, 8, 10], [1, 2, 3, 4, 5, 8, 9, 11], [0, 1, 4, 5, 7, 10],
    [0, 1, 2, 5, 6, 8, 11]]

/-- The syndrome table of R146: syndrome and corrected bit. -/
def tableA : List (Nat × Nat) :=
  [(0x1, 11), (0x2, 12), (0x4, 13), (0x8, 14), (0xF, 0), (0x7, 1), (0xB, 2), (0x3, 3), (0xD, 4), (0x5, 5), (0x9, 6),
    (0xE, 7), (0x6, 8), (0xA, 9), (0xC, 10)]

/-- The syndrome table of R147. -/
def tableB : List (Nat × Nat) :=
  [(0x1, 11), (0x2, 12), (0x4, 13), (0x8, 14), (0x9, 0), (0xB, 1), (0xF, 2), (0x7, 3), (0xE, 4), (0x5, 5), (0xA, 6),
    (0xD, 7), (0x3, 8), (0x6, 9), (0xC, 10)]

/-- The syndrome table of R148. -/
def table13 : List (Nat × Nat) :=
  [(0x1, 9), (0x2, 10), (0x4, 11), (0x8, 12), (0xF, 0), (0x7, 1), (0xE, 2), (0x5, 3), (0xA, 4), (0xD, 5), (0x3, 6),
    (0x6, 7), (0xC, 8)]

/-- The syndrome table of R149. -/
def table17 : List (Nat × Nat) :=
  [(0x01, 12), (0x02, 13), (0x04, 14), (0x08, 15), (0x10, 16), (0x1B, 0), (0x1F, 1), (0x17, 2), (0x07, 3), (0x0E, 4),
    (0x1C, 5), (0x11, 6), (0x0B, 7), (0x16, 8), (0x05, 9), (0x0A, 10), (0x14, 11)]

/-- The command `i` with opcode `op` encodes k data bits by the sets `eqs` (R131). -/
def EncodesAs (op : BitVec 8) (i : Instr) (k : Nat) (eqs : List (List Nat)) : Prop :=
  IsF0 op i ∧ ∀ s : State, ∃ t, exec i s = .next t ∧ Reports t .ok 0 ∧ CodecFrame s t ∧
    OutputIs t (k + eqs.length)
      fun b => if b < k then s.ibuf.bit b else xorOf s.ibuf.bit (eqs.getD (b - k) [])

/-- The command `i` with opcode `op` decodes words of the code (k, eqs) by the syndrome table (R132). -/
def DecodesAs (op : BitVec 8) (i : Instr) (k : Nat) (eqs : List (List Nat)) (table : List (Nat × Nat)) : Prop :=
  IsF0 op i ∧ ∀ s : State, ∃ t, exec i s = .next t ∧ CodecFrame s t ∧
    ((syndromeOf k eqs s.ibuf.bit = 0 ∧ Reports t .clean 0 ∧ OutputIs t (k + eqs.length) s.ibuf.bit) ∨
     (∃ b, (syndromeOf k eqs s.ibuf.bit, b) ∈ table ∧
        Reports t .corrected (syndromeOf k eqs s.ibuf.bit) ∧
        OutputIs t (k + eqs.length) fun j => s.ibuf.bit j ^^ decide (j = b)) ∨
     (syndromeOf k eqs s.ibuf.bit ≠ 0 ∧ (∀ b, (syndromeOf k eqs s.ibuf.bit, b) ∉ table) ∧
        Reports t .uncorrectable (syndromeOf k eqs s.ibuf.bit) ∧
        OutputIs t (k + eqs.length) s.ibuf.bit))

/-- The same outcome and the same output. -/
def SameOutcome (t t' : State) : Prop :=
  t.result = t'.result ∧ t.aux = t'.aux ∧ t.olen = t'.olen ∧ ∀ i, t.obuf.bit i = t'.obuf.bit i

/-- Errors in an n-bit codeword of the commands `enc` and `dec`, k of its bits data (R144 (a), (b), (c)). `err`
says which bits of the codeword are flipped before the decode. -/
def CorrectsErrors (enc dec : Instr) (k n : Nat) : Prop :=
  (∀ s s' : State, (∀ j < n, s.ibuf.bit j = s'.ibuf.bit j) →
    ∃ t t', exec dec s = .next t ∧ exec dec s' = .next t' ∧ SameOutcome t t' ∧ t.result ≠ .faulted) ∧
  ∀ (s t u : State) (err : Nat → Bool), exec enc s = .next t →
    (∀ j < n, u.ibuf.bit j = (t.obuf.bit j ^^ err j)) →
    ((∀ j < n, err j = false) → ∃ v, exec dec u = .next v ∧ v.result = .clean ∧
        OutputIs v n t.obuf.bit ∧ ∀ j < k, v.obuf.bit j = s.ibuf.bit j) ∧
    (∀ e < n, (∀ j < n, err j = decide (j = e)) → ∃ v, exec dec u = .next v ∧ v.result = .corrected ∧
        OutputIs v n t.obuf.bit) ∧
    (∀ e f, e < f → f < n → (∀ j < n, err j = (decide (j = e) || decide (j = f))) →
      ∃ v, exec dec u = .next v ∧
        (v.result = .uncorrectable ∨ (v.result = .corrected ∧ ∃ j < n, v.obuf.bit j ≠ t.obuf.bit j)))

/-! ### Golay code (43_golay.md R160 to R162) -/

/-- The product of two GF(2) polynomials, the first of degree below n. -/
def clmul : Nat → Nat → Nat → Nat
  | 0, _, _ => 0
  | n + 1, a, b => (if a.testBit n then b <<< n else 0) ^^^ clmul n a b

/-- A 19-bit number that is a multiple of g(x) = 0xC75. -/
def GolayMultiple (c : Nat) : Prop := ∃ q, q < 256 ∧ clmul 8 q 0xC75 = c

/-- The number of 1 bits among the low n bits. -/
def weight (n v : Nat) : Nat := ((List.range n).map fun j => bit (v.testBit j)).sum

/-- The number whose bits, first bit most significant, are d[0..n-1]. -/
def numberOf (d : Nat → Bool) : Nat → Nat
  | 0 => 0
  | n + 1 => 2 * numberOf d n + bit (d n)

/-! ### BPTC (44_bptc.md R180, R181) -/

/-- The matrix of a raw block: m[a] = raw[(a * 181) mod 196]. -/
def matrixOf (raw : Nat → Bool) (a : Nat) : Bool := raw ((a * 181) % 196)

/-- Rows 0..8 are H15113B codewords and the 15 columns are H1393 codewords. -/
def BptcCodeword (m : Nat → Bool) : Prop :=
  (∀ r < 9, syndromeOf 11 eqsB (fun i => m (15 * r + 1 + i)) = 0) ∧
  (∀ c < 15, syndromeOf 9 eqs13 (fun a => m (c + 1 + 15 * a)) = 0)

/-- The payload p sits in the matrix as R181 says. -/
def PayloadPlaced (m p : Nat → Bool) : Prop :=
  (∀ j < 8, m (4 + j) = p j) ∧
  (∀ r, 1 ≤ r → r ≤ 8 → ∀ j < 11, m (15 * r + 1 + j) = p (8 + 11 * (r - 1) + j))

/-- The bit that the syndrome table names for the syndrome s, if it names one (R132). -/
def namedBit (table : List (Nat × Nat)) (s : Nat) : Option Nat := (table.find? fun p => p.1 == s).map (·.2)

/-- R132 applied to one line of the matrix, whose bit i stands at position `pos i`: a line whose syndrome names a bit
has that bit flipped and sets `fixing`, every other line is left as it is. -/
def fixLine (k : Nat) (eqs : List (List Nat)) (table : List (Nat × Nat)) (pos : Nat → Nat)
    (mf : (Nat → Bool) × Bool) : (Nat → Bool) × Bool :=
  match namedBit table (syndromeOf k eqs fun i => mf.1 (pos i)) with
  | some b => (fun a => mf.1 a ^^ decide (a = pos b), true)
  | none => mf

/-- COLUMNS() of R183: the columns 0 to 14 in order, column c at m[c+1+15a]. -/
def fixColumns (mf : (Nat → Bool) × Bool) : (Nat → Bool) × Bool :=
  (List.range 15).foldl (fun x c => fixLine 9 eqs13 table13 (fun a => c + 1 + 15 * a) x) mf

/-- ROWS() of R183: the rows 0 to 8 in order, row r at m[15r+1+i]. -/
def fixRows (mf : (Nat → Bool) × Bool) : (Nat → Bool) × Bool :=
  (List.range 9).foldl (fun x r => fixLine 11 eqsB tableB (fun i => 15 * r + 1 + i) x) mf

/-- One pass of R183: the matrix after it, and `fixing`. -/
def fixPass (order : PassOrder) (m : Nat → Bool) : (Nat → Bool) × Bool :=
  match order with
  | .columnsThenRows => fixRows (fixColumns (m, false))
  | .rowsThenColumns => fixColumns (fixRows (m, false))

/-- The matrix after n passes from m, and whether the n-th pass corrected anything (R183). -/
def afterPasses (order : PassOrder) (m : Nat → Bool) : Nat → (Nat → Bool) × Bool
  | 0 => (m, false)
  | n + 1 => fixPass order (afterPasses order m n).1

/-- n passes over the block in IBUF of `s`, in the order BPTC_ORDER gives. -/
def blockAfter (s : State) (n : Nat) : (Nat → Bool) × Bool :=
  afterPasses s.params.bptcOrder (matrixOf s.ibuf.bit) n

/-- The matrix position of payload bit i (R181). -/
def payloadPosition (i : Nat) : Nat := if i < 8 then 4 + i else 15 * (1 + (i - 8) / 11) + 1 + (i - 8) % 11

/-! ### Convolutional code (45_convolutional.md R200, R205, R206) -/

/-- The input bit j steps before step k; before the start it is 0. -/
def delayed (x : Nat → Bool) (k j : Nat) : Bool := if j ≤ k then x (k - j) else false

/-- g1 at step k: 1 + D^3 + D^4 (R200). -/
def codeG1 (x : Nat → Bool) (k : Nat) : Bool := x k ^^ delayed x k 3 ^^ delayed x k 4

/-- g2 at step k: 1 + D + D^2 + D^4 (R200). -/
def codeG2 (x : Nat → Bool) (k : Nat) : Bool := x k ^^ delayed x k 1 ^^ delayed x k 2 ^^ delayed x k 4

/-- |a - b| (R10). -/
def dist (a b : Nat) : Nat := ((a : Int) - (b : Int)).natAbs

/-- BT1 and BT2 of R205. -/
def bt1 : List Nat := [0, 0, 0, 0, 1, 1, 1, 1]

/-- BT2 of R205. -/
def bt2 : List Nat := [0, 1, 1, 0, 0, 1, 1, 0]

/-- `metric` of R205 for butterfly i. -/
def metricOf (q i s0 s1 : Nat) : Nat := dist (q * bt1.getD i 0) s0 + dist (q * bt2.getD i 0) s1

/-- The distance of the received pair from the code pair of the branch from trellis state p = {e4, e3, e2, e1}
with input bit x (R200, R206). -/
def trellisCost (q p : Nat) (x : Bool) (s0 s1 : Nat) : Nat :=
  dist (q * bit (x ^^ p.testBit 2 ^^ p.testBit 3)) s0 +
    dist (q * bit (x ^^ p.testBit 0 ^^ p.testBit 1 ^^ p.testBit 3)) s1

/-- The symbol of a hard-decided code bit: 0, or CONV_Q (R202). -/
def symbol (q : Nat) (b : Bool) : BitVec 8 := if b then BitVec.ofNat 8 q else 0

/-- The commands of CONV_DECODE n for the information bits u and four tail bits (R78, R208). -/
def decodeCommands (q n : Nat) (x : Nat → Bool) : List Instr :=
  Instr.convStart ::
    List.append ((List.range (n + 4)).map fun k => Instr.convStep (symbol q (codeG1 x k)) (symbol q (codeG2 x k)))
      [Instr.convChainback (BitVec.ofNat 16 n)]

/-! ### Frame queue and jitter buffer -/

/-- QDATA of a list of payloads: each with its length byte before it (R30, R110). -/
def queueBytes (rs : List (List Byte)) : List Byte := rs.flatMap fun p => BitVec.ofNat 8 p.length :: p

/-- Every payload has 1..255 bytes (R110). -/
def GoodPayloads (rs : List (List Byte)) : Prop := ∀ p ∈ rs, 1 ≤ p.length ∧ p.length ≤ 255

/-- Bit i of a byte list, most significant bit first (R52). -/
def bitOfBytes (bs : List Byte) (i : Nat) : Bool := (bs.getD (i / 8) 0).getLsbD (7 - i % 8)

/-- OBUF and OLEN hold the bytes `bs` (R11, OUTB). -/
def OutputBytes (t : State) (bs : List Byte) : Prop := OutputIs t (8 * bs.length) (bitOfBytes bs)

/-- Slot i of the jitter buffer. -/
def slot (s : State) (i : Nat) : List Byte := s.jbSlots.getD i []

/-- The frame IBUF[0..n-1]. -/
def inputFrame (s : State) (n : Nat) : List Byte := (List.range n).map fun a => s.ibuf.read a

/-- (a - b) mod m, non-negative (R10). -/
def modSub (a b m : Nat) : Nat := (((a : Int) - (b : Int)) % (m : Int)).toNat

/-- The distance of `seq` from the head, with the window anchored at `seq` when nothing was accepted yet (R233). -/
def windowDistance (s : State) (seq : Nat) : Nat :=
  modSub seq (((if s.jbArmed then s.jbSeq0 else seq) + s.jbH) % s.params.jbSeqMod) s.params.jbSeqMod

/-- The head slot is due: JB_RUNNING = 1 and JB_H <= JB_DUE (R231, R234). -/
def HeadDue (s : State) : Prop :=
  s.jbArmed = true ∧ s.params.jbDelayMs ≤ s.jbElapsed ∧
  s.jbH ≤ (s.jbElapsed - s.params.jbDelayMs) / s.params.jbBlockMs

/-- The sequence number of the frame `a` slots after the head (R230). -/
def seqAhead (s : State) (a : Nat) : Nat := (s.jbSeq0 + s.jbH + a) % s.params.jbSeqMod

/-- Among the commands `cmds`, run from `s`, a JB_ADD of the frame `f` with sequence number `seq` is accepted. -/
def Accepted (cmds : List Instr) (s : State) (seq : Nat) (f : List Byte) : Prop :=
  ∃ pre len q post x y, cmds = pre ++ .jbAdd len q :: post ∧ execAll pre s = .next x ∧
    exec (.jbAdd len q) x = .next y ∧ y.result = .ok ∧ q.toNat = seq ∧ inputFrame x len.toNat = f

/-- g + 1 JB_GETs, each with its slot due: from `w a` the commands `cmds a` lead to `st a`, and the JB_GET there to
`w (a + 1)`. The commands between are none that take frames out of the buffer. -/
def GetsAfter (cmds : Nat → List Instr) (w st : Nat → State) (g : Nat) : Prop :=
  ∀ a ≤ g, execAll (cmds a) (w a) = .next (st a) ∧ HeadDue (st a) ∧ exec .jbGet (st a) = .next (w (a + 1)) ∧
    ∀ i ∈ cmds a, i ≠ .jbGet ∧ i ≠ .jbReset ∧ i ≠ .clrAll

/-- The g frames from the head of `w 0` on are not held there and not accepted later (R236). -/
def GapNeverAccepted (cmds : Nat → List Instr) (w : Nat → State) (g : Nat) : Prop :=
  (∀ b < g, b < (w 0).params.jbSlots → slot (w 0) (((w 0).jbH + b) % (w 0).params.jbSlots) = []) ∧
  ∀ a ≤ g, ∀ b < g, ∀ f, ¬ Accepted (cmds a) (w a) (seqAhead (w 0) b) f

/-- The frame `f` after the gap is held at `w 0`, or accepted before its slot is released (R236). -/
def NextFrameStored (cmds : Nat → List Instr) (w : Nat → State) (g : Nat) (f : List Byte) : Prop :=
  (g < (w 0).params.jbSlots ∧ slot (w 0) (((w 0).jbH + g) % (w 0).params.jbSlots) = f ∧ f ≠ []) ∨
  ∃ a ≤ g, Accepted (cmds a) (w a) (seqAhead (w 0) g) f

/-- Nothing but RESULT and AUX changed. -/
def OnlyReports (s t : State) : Prop :=
  SameHost s t ∧ SameInput s t ∧ SameOutput s t ∧ SameFaults s t ∧ SameUnits s t

/-- The units other than the jitter buffer, the host side, IBUF and the fault record are unchanged. -/
def JitterFrame (s t : State) : Prop :=
  SameHost s t ∧ SameInput s t ∧ SameFaults s t ∧ SameQueue s t ∧ SameDecoder s t

/-- The stateless codec commands and how many IBUF bits each reads (R103). -/
def codecInputs : List (Instr × Nat) :=
  [(.h15113aEnc, 11), (.h15113aDec, 15), (.h15113bEnc, 11), (.h15113bDec, 15),
    (.h1393Enc, 9), (.h1393Dec, 13), (.h17123Enc, 12), (.h17123Dec, 17),
    (.golayEnc, 8), (.golayDec, 19), (.bptcEnc, 96), (.bptcDec, 196)]

end Sys2Proof.Claims

section

open Sys2Proof Sys2Proof.Machine Sys2Proof.Claims

/-! ### Reset and parameters -/

/-- R330: the reset state of every legal parameter set. -/
def Obligations.ResetState : Prop :=
  ∀ p : Params, p.legal = true → ∃ t, State.resetWith p = .next t ∧ t.params = p ∧ t.cmdLast = 0 ∧
    Reports t .ok 0 ∧ t.fault = false ∧ t.faultCode = .noFault ∧ t.olen = 0 ∧
    (∀ a, t.ibuf.read a = 0) ∧ (∀ a, t.obuf.read a = 0) ∧ t.qdata = [] ∧ t.qUsed = 0 ∧ t.qRecords = 0 ∧
    t.jbSlots.length = p.jbSlots ∧ (∀ f ∈ t.jbSlots, f = []) ∧ t.jbH = 0 ∧ t.jbSeq0 = 0 ∧ t.jbArmed = false ∧
    t.jbElapsed = 0 ∧ t.jbLast = [] ∧ t.jbLastValid = false ∧ t.jbRepeats = 0 ∧
    t.convStarted = false ∧ t.convDp = 0 ∧ (∀ i : Fin 16, t.pm[i] = 0) ∧ (∀ i : Fin 180, t.dec[i] = 0) ∧
    (∀ a ∈ [0x00, 0x04, 0x08, 0x0C, 0x10, 0x14, 0x18, 0x1C], registerAt t a = some 0)

/-- R8: which parameter sets are legal, and that no reset state exists for another. -/
def Obligations.ParametersLegalOrRefused : Prop :=
  ∀ p : Params,
    (p.legal = true ↔
      2 ≤ p.qCap ∧ p.qCap ≤ 65535 ∧ 1 ≤ p.jbSlots ∧ p.jbSlots ≤ 255 ∧ 1 ≤ p.jbBlockBytes ∧ p.jbBlockBytes ≤ 255 ∧
      1 ≤ p.jbBlockMs ∧ p.jbBlockMs ≤ 65535 ∧ p.jbDelayMs ≤ 65535 ∧ p.jbSlots ≤ p.jbSeqMod ∧ p.jbSeqMod ≤ 65535 ∧
      p.jbRepeatLimit ≤ 255 ∧ 1 ≤ p.convQ ∧ p.convQ ≤ 127) ∧
    ((∃ t, State.resetWith p = .next t) ↔ p.legal = true) ∧
    (p.legal = false → State.resetWith p = .refused .illegalParameters)

/-- The hardware reset of a running instance (R330, R331). That it keeps the instance's parameters and the model's
own fields is the model's choice, notes/assumptions/5.md. -/
def Obligations.HardwareResetEvent : Prop :=
  ∀ s : State, NextEvent s .reset →
    StepsTo s { State.init s.params with
      inbox := s.inbox.tail, replies := s.replies, freeDraws := s.freeDraws }

/-! ### Steps and decoding -/

/-- A step runs the decoded command: a 32-bit host write of CMD sets CMD_LAST and executes the command (R22, R58). -/
def Obligations.StepRunsDecodedCommand : Prop :=
  ∀ (s : State) (w : Word) (i : Instr), decode w = .ok i →
    (NextEvent s (.write s.params.blockBase 32 w) → step s = exec i { taken s with cmdLast := w }) ∧
    step (s.withFetchWord 32 w.toNat) = exec i { s with cmdLast := w }

/-- A command word that fails check 1 or 2 of R74 raises that check's fault and does nothing else (R74, R300). -/
def Obligations.BadWordFaultsOnly : Prop :=
  ∀ (s : State) (w : Word) (e : DecodeError), decode w = .error e →
    NextEvent s (.write s.params.blockBase 32 w) →
    ∃ t, StepsTo s t ∧
      FaultsWith (if e = .illegalOp then .illegalOp else .reservedField) { taken s with cmdLast := w } t

/-- With no host event the block holds its state (R314); an access outside its window does not change it (R65). That
the block sees such accesses at all is the model's choice, notes/assumptions/1.md and 4.md. -/
def Obligations.IdleAndForeignAccesses : Prop :=
  ∀ s : State,
    (s.inbox = [] → StepsTo s s) ∧
    (∀ addr width v, (addr < s.params.blockBase ∨ s.params.blockBase + 4096 ≤ addr) →
      (NextEvent s (.read addr width) → StepsTo s (taken s)) ∧
      (NextEvent s (.write addr width v) → StepsTo s (taken s)))

/-- Words written out from R71 and R77 decode to their commands. -/
def Obligations.DecodeOfWrittenWords : Prop :=
  decode 0x00000000 = .ok .nop ∧ decode 0x00000310 = .ok (.qPush 3) ∧ decode 0x00000023 = .ok .h15113bDec ∧
  decode 0x00000029 = .ok .golayDec ∧ decode 0x00000030 = .ok .bptcEnc ∧
  decode 0x02030042 = .ok (.convStep 3 2) ∧ decode 0x000C0043 = .ok (.convChainback 12) ∧
  decode 0x000A0151 = .ok (.jbAdd 1 10) ∧ decode 0x00280053 = .ok (.jbClock 40) ∧
  decode 0x00000100 = .error .reservedField ∧ decode 0xFFFF0002 = .error .illegalOp

/-- Decoding an encoded command gives it back, for every operand its fields admit (R71, R73). -/
def Obligations.DecodeEncodeRoundTrip : Prop := ∀ i : Instr, decode (encode i) = .ok i

/-- Each command has one word: a word that decodes is the encoding of what it decodes to (R71, R73). -/
def Obligations.EncodeOfDecoded : Prop := ∀ (w : Word) (i : Instr), decode w = .ok i → encode i = w

/-- R75: exactly the words whose OP is not in the map are illegal, whatever their other bits; there are 231 such values
of OP; and each of these words raises ERR_ILLEGAL_OP. -/
def Obligations.IllegalOpcodesExactly : Prop :=
  (∀ w : Word, decode w = .error .illegalOp ↔ (w.extractLsb' 0 8).toNat ∉ opcodes) ∧
  ((List.range 256).filter fun op => decide (op ∉ opcodes)).length = 231 ∧
  ∀ (w : Word) (s : State), (w.extractLsb' 0 8).toNat ∉ opcodes →
    ∃ t, runCommand w s = .next t ∧ FaultsWith .illegalOp { s with cmdLast := w } t

/-- R76: exactly which words have a nonzero reserved field, and that each of them raises ERR_RESERVED_FIELD. -/
def Obligations.ReservedFieldsExactly : Prop :=
  ∀ w : Word, (decode w = .error .reservedField ↔ NonzeroReserved w) ∧
    (NonzeroReserved w → ∀ s : State,
      ∃ t, runCommand w s = .next t ∧ FaultsWith .reservedField { s with cmdLast := w } t)

/-- R77 for lines already read, and R78: the host accesses each line of the command syntax stands for, and that an
operand outside its field is refused and not truncated. R77 gives the index of IB and of RDB no width and names the
register of RD: that these clauses hold for every index and every address, past the buffer and the registers too, is
the model's choice, notes/assumptions/13.md. -/
def Obligations.AssemblerFollowsTheSyntax : Prop :=
  ∀ base : Nat,
    (∀ c ∈ bareLines, assemble base (.bare c.1) = some [cmdWrite base c.2]) ∧
    (∀ len, assemble base (.qPush len) = if len < 2 ^ 8 then some [cmdWrite base (len * 2 ^ 8 + 0x10)] else none) ∧
    (∀ n, assemble base (.convEnc n) = if n < 2 ^ 16 then some [cmdWrite base (n * 2 ^ 16 + 0x40)] else none) ∧
    (∀ s0 s1, assemble base (.convStep s0 s1) =
      if s0 < 2 ^ 8 ∧ s1 < 2 ^ 8 then some [cmdWrite base (s1 * 2 ^ 24 + s0 * 2 ^ 16 + 0x42)] else none) ∧
    (∀ n, assemble base (.convChainback n) = if n < 2 ^ 16 then some [cmdWrite base (n * 2 ^ 16 + 0x43)] else none) ∧
    (∀ len seq, assemble base (.jbAdd len seq) =
      if len < 2 ^ 8 ∧ seq < 2 ^ 16 then some [cmdWrite base (seq * 2 ^ 16 + len * 2 ^ 8 + 0x51)] else none) ∧
    (∀ ms, assemble base (.jbClock ms) = if ms < 2 ^ 16 then some [cmdWrite base (ms * 2 ^ 16 + 0x53)] else none) ∧
    (∀ a bytes, assemble base (.ib a bytes) =
      if (∀ v ∈ bytes, v < 2 ^ 8) then some (inputWrites base a bytes) else none) ∧
    (∀ a, assemble base (.rd a) = some [.read (base + a) 32] ∧
      assemble base (.rdb a) = some [.read (base + 0x200 + a) 8]) ∧
    (∀ n c, assemble base (.convDecode n c) =
      if 1 ≤ n ∧ n ≤ 176 ∧ c.length = 2 * n + 8 ∧ (∀ v ∈ c, v < 2 ^ 8) then
        some ([cmdWrite base 0x41] ++
          ((List.range (n + 4)).map fun i =>
            cmdWrite base (c.getD (2 * i + 1) 0 * 2 ^ 24 + c.getD (2 * i) 0 * 2 ^ 16 + 0x42)) ++
          [cmdWrite base (n * 2 ^ 16 + 0x43)])
      else none) ∧
    (∀ bytes, assemble base (.framePush bytes) =
      if (∀ v ∈ bytes, v < 2 ^ 8) ∧ bytes.length < 2 ^ 8 then
        some (inputWrites base 0 bytes ++ [cmdWrite base (bytes.length * 2 ^ 8 + 0x10)])
      else none) ∧
    (∀ seq bytes, assemble base (.frameAdd seq bytes) =
      if (∀ v ∈ bytes, v < 2 ^ 8) ∧ bytes.length < 2 ^ 8 ∧ seq < 2 ^ 16 then
        some (inputWrites base 0 bytes ++ [cmdWrite base (seq * 2 ^ 16 + bytes.length * 2 ^ 8 + 0x51)])
      else none)

/-! ### The host interface -/

/-- The values of the result codes (R25) and of the fault codes (R301). -/
def Obligations.ResultAndFaultCodes : Prop :=
  [ResultCode.ok, .clean, .corrected, .uncorrectable, .qFull, .qEmpty, .jbOutOfWindow, .jbDuplicate, .jbNoData,
      .jbData, .jbRepeat, .jbMissing, .faulted].map (fun r => r.toByte.toNat) =
    [0x00, 0x01, 0x02, 0x03, 0x10, 0x11, 0x20, 0x21, 0x22, 0x23, 0x24, 0x25, 0xFF] ∧
  [ErrCode.noFault, .illegalOp, .reservedField, .operand, .sequence, .decisionFull, .chainbackRange, .bus,
      .counterLimit].map (fun e => e.toByte.toNat) = [0, 1, 2, 3, 4, 5, 6, 7, 8]

/-- The register map (R23): what a 32-bit read of each register returns, field by field, and that it changes nothing
(R59). -/
def Obligations.RegisterMapReads : Prop :=
  ∀ s : State, s.Inv →
    RegisterReads s 0x000 s.cmdLast.toNat ∧
    RegisterReads s 0x004 (wordOf [(0, s.result.toByte.toNat), (8, bit s.fault), (16, s.faultCode.toByte.toNat),
      (24, s.aux.toNat)]) ∧
    RegisterReads s 0x008 s.olen ∧
    RegisterReads s 0x00C (wordOf [(0, s.qdata.length), (16, s.qRecords)]) ∧
    RegisterReads s 0x010 (wordOf [(0, bit s.jbArmed),
      (1, bit (s.jbArmed && decide (s.params.jbDelayMs ≤ s.jbElapsed))), (2, bit s.jbLastValid), (8, s.jbRepeats),
      (16, (s.jbSeq0 + s.jbH) % s.params.jbSeqMod)]) ∧
    RegisterReads s 0x014 s.jbElapsed ∧
    RegisterReads s 0x018 s.jbH ∧
    RegisterReads s 0x01C (wordOf [(0, bit s.convStarted), (8, s.convDp)]) ∧
    RegisterReads s 0x020 (wordOf [(0, s.params.qCap), (16, s.params.jbSlots), (24, s.params.jbBlockBytes)]) ∧
    RegisterReads s 0x024 (wordOf [(0, s.params.jbBlockMs), (16, s.params.jbDelayMs)]) ∧
    RegisterReads s 0x028 (wordOf [(0, s.params.jbSeqMod), (16, s.params.jbRepeatLimit), (24, s.params.convQ)]) ∧
    RegisterReads s 0x02C (wordOf [(0, 5), (8, bit (decide (s.params.bptcOrder = .rowsThenColumns)))])

/-- R53: a byte write to IBUF stores the low 8 bits there and changes nothing else, and a byte read returns the byte
zero-extended. -/
def Obligations.IbufByteAccess : Prop :=
  ∀ (s : State) (a : Nat), s.Inv → a < 256 →
    (∀ v : Word, NextEvent s (.write (s.params.blockBase + 0x100 + a) 8 v) →
      ∃ t, StepsTo s t ∧ (∀ b, t.ibuf.read b = if b = a then v.setWidth 8 else s.ibuf.read b) ∧
        t.result = s.result ∧ t.aux = s.aux ∧
        SameHost (taken s) t ∧ SameOutput s t ∧ SameFaults s t ∧ SameUnits s t) ∧
    (NextEvent s (.read (s.params.blockBase + 0x100 + a) 8) →
      StepsTo s { taken s with replies := s.replies ++ [BitVec.ofNat 32 (s.ibuf.read a).toNat] })

/-- R54: a byte read of OBUF returns the byte zero-extended, and a write to OBUF is a bus fault. -/
def Obligations.ObufByteAccess : Prop :=
  ∀ (s : State) (a : Nat), a < 256 →
    (NextEvent s (.read (s.params.blockBase + 0x200 + a) 8) →
      StepsTo s { taken s with replies := s.replies ++ [BitVec.ofNat 32 (s.obuf.read a).toNat] }) ∧
    (∀ width v, NextEvent s (.write (s.params.blockBase + 0x200 + a) width v) →
      ∃ t, StepsTo s t ∧ BusFaulted (taken s) t ∧ t.replies = s.replies)

/-- R303: every host access the map does not allow is a bus fault: a read returns 0 and a write changes nothing, and
both record the fault and leave RESULT and AUX alone. No access the map allows is one: a read and an IBUF write record
no fault, and a CMD write records none or the fault of its command, which is never ERR_BUS. -/
def Obligations.BusFaultsExactly : Prop :=
  ∀ (s : State) (a width : Nat), a < 4096 →
    (NextEvent s (.read (s.params.blockBase + a) width) → ¬ LegalRead a width →
      ∃ t, StepsTo s t ∧ BusFaulted (taken s) t ∧ t.replies = s.replies ++ [0]) ∧
    (NextEvent s (.read (s.params.blockBase + a) width) → LegalRead a width →
      ∃ t, StepsTo s t ∧ SameFaults s t) ∧
    (∀ v, NextEvent s (.write (s.params.blockBase + a) width v) → ¬ LegalWrite a width →
      ∃ t, StepsTo s t ∧ BusFaulted (taken s) t ∧ t.replies = s.replies) ∧
    (∀ v, NextEvent s (.write (s.params.blockBase + a) width v) → LegalWrite a width →
      ∃ t, StepsTo s t ∧ (SameFaults s t ∨
        width = 32 ∧ s.fault = false ∧ t.fault = true ∧ t.result = .faulted ∧ t.faultCode ≠ .bus ∧
          t.faultCode ≠ .noFault))

/-! ### System commands -/

/-- R100: NOP. -/
def Obligations.NopEffect : Prop :=
  IsF0 0x00 .nop ∧ ∀ s : State, ∃ t, exec .nop s = .next t ∧ Reports t .ok 0 ∧ OnlyReports s t

/-- R101: CLR_ALL. -/
def Obligations.ClrAllEffect : Prop :=
  IsF0 0x01 .clrAll ∧ ∀ s : State, ∃ t, exec .clrAll s = .next t ∧ Reports t .ok 0 ∧
    t.qdata = [] ∧ t.jbSlots.length = s.params.jbSlots ∧ (∀ f ∈ t.jbSlots, f = []) ∧ t.jbH = 0 ∧ t.jbSeq0 = 0 ∧
    t.jbArmed = false ∧ t.jbElapsed = 0 ∧ t.jbLast = [] ∧ t.jbLastValid = false ∧ t.jbRepeats = 0 ∧
    t.convStarted = false ∧ t.convDp = 0 ∧ (∀ i : Fin 16, t.pm[i] = 0) ∧ (∀ i : Fin 180, t.dec[i] = 0) ∧
    t.freeDraws = s.freeDraws ∧ SameHost s t ∧ SameInput s t ∧ SameOutput s t ∧ SameFaults s t

/-! ### Frame queue -/

/-- R111: Q_PUSH len, in each of its three cases. -/
def Obligations.QPushEffect : Prop :=
  IsFL 0x10 .qPush ∧ ∀ (s : State) (len : BitVec 8),
    (len = 0 → ∃ t, exec (.qPush len) s = .next t ∧ FaultsWith .operand s t) ∧
    (len ≠ 0 → s.qdata.length + 1 + len.toNat > s.params.qCap →
      ∃ t, exec (.qPush len) s = .next t ∧ Reports t .qFull 0 ∧ OnlyReports s t) ∧
    (len ≠ 0 → s.qdata.length + 1 + len.toNat ≤ s.params.qCap →
      ∃ t, exec (.qPush len) s = .next t ∧ Reports t .ok 0 ∧
        t.qdata = s.qdata ++ [len] ++ inputFrame s len.toNat ∧
        SameHost s t ∧ SameInput s t ∧ SameOutput s t ∧ SameFaults s t ∧ SameJitter s t ∧ SameDecoder s t)

/-- R112: Q_POP, on the empty queue and on a queue that starts with a whole record. -/
def Obligations.QPopEffect : Prop :=
  IsF0 0x11 .qPop ∧ ∀ s : State,
    (s.qdata = [] → ∃ t, exec .qPop s = .next t ∧ Reports t .qEmpty 0 ∧ OutputBytes t [] ∧ CodecFrame s t) ∧
    (∀ (n : Byte) (payload rest : List Byte), s.qdata = n :: (payload ++ rest) → payload.length = n.toNat →
      ∃ t, exec .qPop s = .next t ∧ Reports t .ok 0 ∧ OutputBytes t payload ∧ t.qdata = rest ∧
        SameHost s t ∧ SameInput s t ∧ SameFaults s t ∧ SameJitter s t ∧ SameDecoder s t)

/-- R113: Q_CLEAR. -/
def Obligations.QClearEffect : Prop :=
  IsF0 0x12 .qClear ∧ ∀ s : State, ∃ t, exec .qClear s = .next t ∧ Reports t .ok 0 ∧ t.qdata = [] ∧
    SameHost s t ∧ SameInput s t ∧ SameOutput s t ∧ SameFaults s t ∧ SameJitter s t ∧ SameDecoder s t

/-- R114: the queue is a FIFO of payloads. QDATA that stands for the payloads `rs` stands for `rs` and the pushed
payload after an accepted push, gives up its first payload to a pop, and is kept by every command that is not a queue
command or CLR_ALL. -/
def Obligations.QueueIsFifo : Prop :=
  ∀ (s : State) (rs : List (List Byte)), GoodPayloads rs → s.qdata = queueBytes rs →
    s.qRecords = rs.length ∧
    (∀ (len : BitVec 8) (t : State), exec (.qPush len) s = .next t →
      if t.result = .ok then
        t.qdata = queueBytes (rs ++ [inputFrame s len.toNat]) ∧ GoodPayloads (rs ++ [inputFrame s len.toNat])
      else t.qdata = queueBytes rs) ∧
    (∀ p rest, rs = p :: rest →
      ∃ t, exec .qPop s = .next t ∧ t.result = .ok ∧ OutputBytes t p ∧ t.qdata = queueBytes rest) ∧
    (rs = [] → ∃ t, exec .qPop s = .next t ∧ t.result = .qEmpty ∧ t.qdata = queueBytes []) ∧
    (∀ (i : Instr) (t : State), exec i s = .next t → i ≠ .qPop → i ≠ .qClear → i ≠ .clrAll →
      (∀ len, i ≠ .qPush len) → t.qdata = queueBytes rs)

/-- R115: after every sequence of commands the queue holds at most its capacity, and a rejected push changes no byte
of it. -/
def Obligations.QueueCapacityBound : Prop :=
  (∀ (cmds : List Instr) (s t : State), s.qdata.length ≤ s.params.qCap → execAll cmds s = .next t →
    t.qdata.length ≤ t.params.qCap ∧ t.params = s.params) ∧
  (∀ (i : Instr) (s t : State), exec i s = .next t → t.result = .qFull → t.qdata = s.qdata)

/-! ### Hamming codes -/

/-- The four Hamming encoders (R131, R133, R136, R139, R142). -/
def Obligations.HammingEncoders : Prop :=
  EncodesAs 0x20 .h15113aEnc 11 eqsA ∧ EncodesAs 0x22 .h15113bEnc 11 eqsB ∧
  EncodesAs 0x24 .h1393Enc 9 eqs13 ∧ EncodesAs 0x26 .h17123Enc 12 eqs17

/-- The four Hamming decoders, by the spec's syndrome tables (R132, R134, R137, R140, R143). -/
def Obligations.HammingDecoders : Prop :=
  DecodesAs 0x21 .h15113aDec 11 eqsA tableA ∧ DecodesAs 0x23 .h15113bDec 11 eqsB tableB ∧
  DecodesAs 0x25 .h1393Dec 9 eqs13 table13 ∧ DecodesAs 0x27 .h17123Dec 12 eqs17 table17

/-- R144: every Hamming code returns a clean codeword, corrects any single error, and never reports two errors
clean. No decode faults or depends on a bit past its n bits. -/
def Obligations.HammingErrorCorrection : Prop :=
  CorrectsErrors .h15113aEnc .h15113aDec 11 15 ∧ CorrectsErrors .h15113bEnc .h15113bDec 11 15 ∧
  CorrectsErrors .h1393Enc .h1393Dec 9 13 ∧ CorrectsErrors .h17123Enc .h17123Dec 12 17

/-! ### Golay code -/

/-- R160, R161, R163: GOLAY_ENC gives the data byte, the check bits that make a multiple of g(x), and even parity. -/
def Obligations.GolayEncodeEffect : Prop :=
  IsF0 0x28 .golayEnc ∧ ∀ s : State, ∃ t c, exec .golayEnc s = .next t ∧ Reports t .ok 0 ∧ CodecFrame s t ∧
    c < 2048 ∧ GolayMultiple ((s.ibuf.read 0).toNat * 2048 + c) ∧
    OutputIs t 20 fun i =>
      if i < 19 then ((s.ibuf.read 0).toNat * 2048 + c).testBit (18 - i)
      else decide (weight 19 ((s.ibuf.read 0).toNat * 2048 + c) % 2 = 1)

/-- R162, R164: GOLAY_DEC, by what the received 19 bits c are: a multiple of g(x); a multiple up to an error e of one,
two or three bits; neither. -/
def Obligations.GolayDecodeEffect : Prop :=
  IsF0 0x29 .golayDec ∧ ∀ s : State, ∃ t, exec .golayDec s = .next t ∧ CodecFrame s t ∧
    (GolayMultiple (numberOf s.ibuf.bit 19) → Reports t .clean 0 ∧ OutputIs t 8 s.ibuf.bit) ∧
    (∀ e < 2 ^ 19, 1 ≤ weight 19 e → weight 19 e ≤ 3 → GolayMultiple (numberOf s.ibuf.bit 19 ^^^ e) →
      Reports t .corrected (weight 19 e) ∧ OutputIs t 8 fun i => s.ibuf.bit i ^^ e.testBit (18 - i)) ∧
    ((∀ e < 2 ^ 19, weight 19 e ≤ 3 → ¬ GolayMultiple (numberOf s.ibuf.bit 19 ^^^ e)) →
      Reports t .uncorrectable 0 ∧ OutputIs t 8 s.ibuf.bit)

/-- R165 (a), (b): up to three errors among d[0..18] of an encoded byte, with or without one in d[19], are corrected
and counted. -/
def Obligations.GolayCorrectsThreeErrors : Prop :=
  ∀ (s t u : State) (errs : List Nat), exec .golayEnc s = .next t → errs.Nodup → errs.length ≤ 3 →
    (∀ e ∈ errs, e < 19) → (∀ j < 19, u.ibuf.bit j = (t.obuf.bit j ^^ decide (j ∈ errs))) →
    ∃ v, exec .golayDec u = .next v ∧
      Reports v (if errs = [] then .clean else .corrected) errs.length ∧ OutputIs v 8 s.ibuf.bit

/-! ### BPTC -/

/-- R180 to R182: BPTC_ENC gives the one block whose matrix holds the payload where R181 says, zeros in the reserved
bits, and a codeword in every data row and every column. -/
def Obligations.BptcEncodeEffect : Prop :=
  IsF0 0x30 .bptcEnc ∧ ∀ s : State, ∃ t, exec .bptcEnc s = .next t ∧ Reports t .ok 0 ∧ CodecFrame s t ∧
    OutputIs t 196 t.obuf.bit ∧ (∀ a < 4, matrixOf t.obuf.bit a = false) ∧
    PayloadPlaced (matrixOf t.obuf.bit) s.ibuf.bit ∧ BptcCodeword (matrixOf t.obuf.bit)

/-- R183, R184: BPTC_DEC on every block: p passes in the order of BPTC_ORDER, the loop ending with the first pass that
corrects nothing or with the fifth; AUX = p; the status from the syndromes after the last pass; the 96 payload bits of
the matrix after it. -/
def Obligations.BptcDecodeCompletes : Prop :=
  IsF0 0x31 .bptcDec ∧ ∀ s : State, ∃ t p, exec .bptcDec s = .next t ∧ CodecFrame s t ∧
    1 ≤ p ∧ p ≤ 5 ∧ (∀ k, 1 ≤ k → k < p → (blockAfter s k).2 = true) ∧ (p = 5 ∨ (blockAfter s p).2 = false) ∧
    t.aux = BitVec.ofNat 8 p ∧
    (¬ BptcCodeword (blockAfter s p).1 → t.result = .uncorrectable) ∧
    (BptcCodeword (blockAfter s p).1 → (∃ k, 1 ≤ k ∧ k ≤ p ∧ (blockAfter s k).2 = true) → t.result = .corrected) ∧
    (BptcCodeword (blockAfter s p).1 → (∀ k, 1 ≤ k → k ≤ p → (blockAfter s k).2 = false) → t.result = .clean) ∧
    OutputIs t 96 fun i => (blockAfter s p).1 (payloadPosition i)

/-- R183: BPTC_DEC reports CLEAN exactly on blocks whose data rows and columns are codewords, and then returns their
payload as it is. -/
def Obligations.BptcCleanExactlyOnCodewords : Prop :=
  ∀ s t : State, exec .bptcDec s = .next t →
    (t.result = .clean ↔ BptcCodeword (matrixOf s.ibuf.bit)) ∧
    (t.result = .clean → PayloadPlaced (matrixOf s.ibuf.bit) t.obuf.bit)

/-- R185, without errors: decoding an encoded block gives CLEAN, one pass and the payload, in either pass order. -/
def Obligations.BptcRoundTrip : Prop :=
  ∀ s t u : State, exec .bptcEnc s = .next t → (∀ j < 196, u.ibuf.bit j = t.obuf.bit j) →
    ∃ v, exec .bptcDec u = .next v ∧ Reports v .clean 1 ∧ OutputIs v 96 s.ibuf.bit

/-- R184, R185, one error: the payload is right in either pass order; an error in raw bit 0 gives CLEAN after one
pass, any other gives CORRECTED after two. -/
def Obligations.BptcCorrectsSingleErrors : Prop :=
  ∀ (s t u : State) (e : Nat), exec .bptcEnc s = .next t → e < 196 →
    (∀ j < 196, u.ibuf.bit j = (t.obuf.bit j ^^ decide (j = e))) →
    ∃ v, exec .bptcDec u = .next v ∧
      Reports v (if e = 0 then .clean else .corrected) (if e = 0 then 1 else 2) ∧ OutputIs v 96 s.ibuf.bit

/-- R185, two errors, columns first: every pattern of two errors returns the right payload. -/
def Obligations.BptcDoubleErrorPayload : Prop :=
  ∀ (s t u : State) (e f : Nat), exec .bptcEnc s = .next t → u.params.bptcOrder = .columnsThenRows →
    e < f → f < 196 →
    (∀ j < 196, u.ibuf.bit j = (t.obuf.bit j ^^ (decide (j = e) || decide (j = f)))) →
    ∃ v, exec .bptcDec u = .next v ∧ OutputIs v 96 s.ibuf.bit

/-! ### Convolutional code -/

/-- R200, R201: CONV_ENC N faults outside 1..1024, and else gives the code bits g1, g2 of each input bit. -/
def Obligations.ConvEncodeEffect : Prop :=
  IsFN 0x40 .convEnc ∧ ∀ (s : State) (n : BitVec 16),
    (n = 0 ∨ 1024 < n.toNat → ∃ t, exec (.convEnc n) s = .next t ∧ FaultsWith .operand s t) ∧
    (n ≠ 0 → n.toNat ≤ 1024 → ∃ t, exec (.convEnc n) s = .next t ∧ Reports t .ok 0 ∧ CodecFrame s t ∧
      OutputIs t (2 * n.toNat) fun i =>
        if i % 2 = 0 then codeG1 s.ibuf.bit (i / 2) else codeG2 s.ibuf.bit (i / 2))

/-- R203: CONV_START. -/
def Obligations.ConvStartEffect : Prop :=
  IsF0 0x41 .convStart ∧ ∀ s : State, ∃ t, exec .convStart s = .next t ∧ Reports t .ok 0 ∧
    (∀ i : Fin 16, t.pm[i] = 0) ∧ t.convDp = 0 ∧ t.convStarted = true ∧ t.dec = s.dec ∧ t.freeDraws = s.freeDraws ∧
    SameHost s t ∧ SameInput s t ∧ SameOutput s t ∧ SameFaults s t ∧ SameQueue s t ∧ SameJitter s t

/-- R204, R205: CONV_STEP s0, s1: its faults in their order, and else the add-compare-select. The new metric is the
survivor's wherever that fits sixteen bits. That it is so past R33's bound too, and free up to R33's bound where it does
not fit, is the model's choice (notes/assumptions/6.md). -/
def Obligations.ConvStepEffect : Prop :=
  IsFS 0x42 .convStep ∧ ∀ (s : State) (s0 s1 : BitVec 8),
    (s.params.convQ < s0.toNat ∨ s.params.convQ < s1.toNat →
      ∃ t, exec (.convStep s0 s1) s = .next t ∧ FaultsWith .operand s t) ∧
    (s0.toNat ≤ s.params.convQ → s1.toNat ≤ s.params.convQ → s.convStarted = false →
      ∃ t, exec (.convStep s0 s1) s = .next t ∧ FaultsWith .sequence s t) ∧
    (s0.toNat ≤ s.params.convQ → s1.toNat ≤ s.params.convQ → s.convStarted = true → s.convDp = 180 →
      ∃ t, exec (.convStep s0 s1) s = .next t ∧ FaultsWith .decisionFull s t) ∧
    (s0.toNat ≤ s.params.convQ → s1.toNat ≤ s.params.convQ → s.convStarted = true → s.convDp < 180 →
      ∃ t, exec (.convStep s0 s1) s = .next t ∧ Reports t .ok 0 ∧ t.convStarted = true ∧
        t.convDp = s.convDp + 1 ∧ (∀ k < 180, k ≠ s.convDp → t.dec.getD k 0 = s.dec.getD k 0) ∧
        SameHost s t ∧ SameInput s t ∧ SameOutput s t ∧ SameFaults s t ∧ SameQueue s t ∧ SameJitter s t ∧
        ∀ i < 8, ∀ x < 2, ∃ m0 m1,
          m0 = (s.pm.getD i 0).toNat + (if x = 0 then metricOf s.params.convQ i s0.toNat s1.toNat
            else 2 * s.params.convQ - metricOf s.params.convQ i s0.toNat s1.toNat) ∧
          m1 = (s.pm.getD (i + 8) 0).toNat + (if x = 0 then
            2 * s.params.convQ - metricOf s.params.convQ i s0.toNat s1.toNat
            else metricOf s.params.convQ i s0.toNat s1.toNat) ∧
          (t.dec.getD s.convDp 0).getLsbD (2 * i + x) = decide (m0 ≥ m1) ∧
          ((if m0 ≥ m1 then m1 else m0) < 65536 →
            (t.pm.getD (2 * i + x) 0).toNat = if m0 ≥ m1 then m1 else m0) ∧
          ((if m0 ≥ m1 then m1 else m0) ≥ 65536 → (t.pm.getD (2 * i + x) 0).toNat ≤ 2 * s.params.convQ * 180))

/-- R206: the candidates of new state t are the metrics of its two predecessors t >> 1 and (t >> 1) | 8 plus the
distance of the received pair from the code pair of R200 on that branch. -/
def Obligations.TrellisFollowsTheCode : Prop :=
  ∀ (pm : Vector (BitVec 16) 16) (q s0 s1 t : Nat), s0 ≤ q → s1 ≤ q → t < 16 →
    acsLow pm q s0 s1 t = (pm.getD (t / 2) 0).toNat + trellisCost q (t / 2) (decide (t % 2 = 1)) s0 s1 ∧
    acsHigh pm q s0 s1 t = (pm.getD (t / 2 + 8) 0).toNat + trellisCost q (t / 2 + 8) (decide (t % 2 = 1)) s0 s1

/-- R207: CONV_CHAINBACK N: its faults in their order, and else the walk from state 0. `b j` is the j-th decision read
and `st j` the trellis state it is read in. -/
def Obligations.ConvChainbackEffect : Prop :=
  IsFN 0x43 .convChainback ∧ ∀ (s : State) (n : BitVec 16),
    (n = 0 → ∃ t, exec (.convChainback n) s = .next t ∧ FaultsWith .operand s t) ∧
    (n ≠ 0 → s.convStarted = false → ∃ t, exec (.convChainback n) s = .next t ∧ FaultsWith .sequence s t) ∧
    (n ≠ 0 → s.convStarted = true → s.convDp < n.toNat →
      ∃ t, exec (.convChainback n) s = .next t ∧ FaultsWith .chainbackRange s t) ∧
    (n ≠ 0 → s.convStarted = true → n.toNat ≤ s.convDp →
      ∃ t, exec (.convChainback n) s = .next t ∧ Reports t .ok 0 ∧ t.convDp = s.convDp - n.toNat ∧
        t.convStarted = true ∧ t.pm = s.pm ∧ t.dec = s.dec ∧ t.freeDraws = s.freeDraws ∧
        SameHost s t ∧ SameInput s t ∧ SameFaults s t ∧ SameQueue s t ∧ SameJitter s t ∧
        ∃ (b : Nat → Bool) (st : Nat → Nat), st 0 = 0 ∧
          (∀ j < n.toNat, b j = (s.dec.getD (s.convDp - 1 - j) 0).getLsbD (st j) ∧
            st (j + 1) = bit (b j) * 8 + st j / 2) ∧
          OutputIs t n.toNat fun i => b (n.toNat - 1 - i))

/-- R208 (a): encoding n = 1..176 bits with four tail bits and decoding them with CONV_DECODE n returns the bits, and
state 0 ends with metric 0, for every legal CONV_Q and whatever the decoder did before. -/
def Obligations.ConvRoundTrip : Prop :=
  ∀ (s : State) (n : Nat) (u : Nat → Bool), s.params.legal = true → 1 ≤ n → n ≤ 176 →
    ∃ t, execAll (decodeCommands s.params.convQ n fun k => decide (k < n) && u k) s = .next t ∧
      Reports t .ok 0 ∧ OutputIs t n u ∧ t.pm.getD 0 0 = 0 ∧ t.convDp = 4

/-- R33 as it follows from R32 and R205: while every metric is at most 2 * CONV_Q for each stored decision, a CONV_STEP
that completes keeps it so, and stores no free value. -/
def Obligations.MetricBoundKeptByStep : Prop :=
  ∀ (s : State) (s0 s1 : BitVec 8), s.params.convQ ≤ 127 → s0.toNat ≤ s.params.convQ → s1.toNat ≤ s.params.convQ →
    s.convStarted = true → s.convDp < 180 →
    (∀ i < 16, (s.pm.getD i 0).toNat ≤ 2 * s.params.convQ * s.convDp) →
    ∃ t, exec (.convStep s0 s1) s = .next t ∧ t.freeDraws = s.freeDraws ∧
      ∀ i < 16, (t.pm.getD i 0).toNat ≤ 2 * t.params.convQ * t.convDp

/-- R33 over every step of the machine, chainbacks among them: where `k` counts the CONV_STEPs since the last
CONV_START, every metric is at most 2 * CONV_Q * k, for every k up to 180, which is at most 45720, and no free value is
stored. A step is an accepted CONV_STEP exactly when CONV_DP grows by one. R33 names no such k: past 180 such
steps, which R207 allows, the sums of R205 pass its bound, and following R205 there is the model's choice,
notes/assumptions/6.md. -/
def Obligations.MetricBoundKeptByEveryStep : Prop :=
  ∀ (s t : State) (k : Nat), s.params.legal = true → k < 180 →
    (∀ i < 16, (s.pm.getD i 0).toNat ≤ 2 * s.params.convQ * k) → StepsTo s t →
    2 * t.params.convQ * (k + 1) ≤ 45720 ∧ t.freeDraws = s.freeDraws ∧
    (t.convDp = s.convDp + 1 → ∀ i < 16, (t.pm.getD i 0).toNat ≤ 2 * t.params.convQ * (k + 1)) ∧
    (t.convDp ≠ s.convDp + 1 → ∀ i < 16, (t.pm.getD i 0).toNat ≤ 2 * t.params.convQ * k)

/-! ### Jitter buffer -/

/-- R232: JB_RESET. -/
def Obligations.JbResetEffect : Prop :=
  IsF0 0x50 .jbReset ∧ ∀ s : State, ∃ t, exec .jbReset s = .next t ∧ Reports t .ok 0 ∧
    t.jbSlots.length = s.params.jbSlots ∧ (∀ f ∈ t.jbSlots, f = []) ∧ t.jbH = 0 ∧ t.jbSeq0 = 0 ∧
    t.jbArmed = false ∧ t.jbElapsed = 0 ∧ t.jbLast = [] ∧ t.jbLastValid = false ∧ t.jbRepeats = 0 ∧
    SameHost s t ∧ SameInput s t ∧ SameOutput s t ∧ SameFaults s t ∧ SameQueue s t ∧ SameDecoder s t

/-- R233: JB_ADD len, seq: its operand fault, the two rejections, and the accepted frame. -/
def Obligations.JbAddEffect : Prop :=
  IsFLS 0x51 .jbAdd ∧ ∀ (s : State) (len : BitVec 8) (seq : BitVec 16), s.params.legal = true →
    (len = 0 ∨ s.params.jbBlockBytes < len.toNat ∨ s.params.jbSeqMod ≤ seq.toNat →
      ∃ t, exec (.jbAdd len seq) s = .next t ∧ FaultsWith .operand s t) ∧
    (len ≠ 0 → len.toNat ≤ s.params.jbBlockBytes → seq.toNat < s.params.jbSeqMod →
      (s.params.jbSlots ≤ windowDistance s seq.toNat →
        ∃ t, exec (.jbAdd len seq) s = .next t ∧ Reports t .jbOutOfWindow 0 ∧ OnlyReports s t) ∧
      (windowDistance s seq.toNat < s.params.jbSlots →
        (slot s ((s.jbH + windowDistance s seq.toNat) % s.params.jbSlots) ≠ [] →
          ∃ t, exec (.jbAdd len seq) s = .next t ∧ Reports t .jbDuplicate 0 ∧ OnlyReports s t) ∧
        (slot s ((s.jbH + windowDistance s seq.toNat) % s.params.jbSlots) = [] →
          ∃ t, exec (.jbAdd len seq) s = .next t ∧ Reports t .ok 0 ∧
            t.jbSlots = s.jbSlots.set ((s.jbH + windowDistance s seq.toNat) % s.params.jbSlots)
              (inputFrame s len.toNat) ∧
            t.jbArmed = true ∧ t.jbSeq0 = (if s.jbArmed then s.jbSeq0 else seq.toNat) ∧
            t.jbElapsed = (if s.jbArmed then s.jbElapsed else 0) ∧ t.jbH = s.jbH ∧ t.jbLast = s.jbLast ∧
            t.jbLastValid = s.jbLastValid ∧ t.jbRepeats = s.jbRepeats ∧ SameOutput s t ∧ JitterFrame s t)))

/-- R233, corner case: the first frame after a reset is always accepted, anchors the window and starts the clock. -/
def Obligations.FirstFrameAnchorsWindow : Prop :=
  ∀ (s : State) (len : BitVec 8) (seq : BitVec 16), s.Inv → s.jbArmed = false → len ≠ 0 →
    len.toNat ≤ s.params.jbBlockBytes → seq.toNat < s.params.jbSeqMod →
    ∃ t, exec (.jbAdd len seq) s = .next t ∧ t.result = .ok ∧ t.jbSeq0 = seq.toNat ∧ t.jbArmed = true ∧
      t.jbElapsed = 0 ∧ t.jbHeadSeq = seq.toNat ∧ slot t 0 = inputFrame s len.toNat ∧
      ∀ i, i ≠ 0 → slot t i = []

/-- R233 and 90_conflicts.md C13: a frame 1 .. JB_SEQ_MOD - JB_SLOTS slots behind the head is out of the window. -/
def Obligations.LateFramesRejected : Prop :=
  ∀ (s : State) (len : BitVec 8) (seq : BitVec 16) (k : Nat), s.Inv → s.jbArmed = true → len ≠ 0 →
    len.toNat ≤ s.params.jbBlockBytes → 1 ≤ k → k ≤ s.params.jbSeqMod - s.params.jbSlots →
    seq.toNat = modSub (s.jbSeq0 + s.jbH) k s.params.jbSeqMod →
    ∃ t, exec (.jbAdd len seq) s = .next t ∧ Reports t .jbOutOfWindow 0 ∧ OnlyReports s t

/-- R231, R234: JB_GET: nothing due, the counter limit, the frame in the due slot, a repeat, or a miss. -/
def Obligations.JbGetEffect : Prop :=
  IsF0 0x52 .jbGet ∧ ∀ s : State, s.params.legal = true →
    (¬ HeadDue s → ∃ t, exec .jbGet s = .next t ∧ Reports t .jbNoData 0 ∧ OutputBytes t [] ∧ CodecFrame s t) ∧
    (HeadDue s → s.jbH = 2 ^ 32 - 1 → ∃ t, exec .jbGet s = .next t ∧ FaultsWith .counterLimit s t) ∧
    (HeadDue s → s.jbH ≠ 2 ^ 32 - 1 → slot s (s.jbH % s.params.jbSlots) ≠ [] →
      ∃ t, exec .jbGet s = .next t ∧ Reports t .jbData 0 ∧
        OutputBytes t (slot s (s.jbH % s.params.jbSlots)) ∧ t.jbH = s.jbH + 1 ∧
        t.jbLast = slot s (s.jbH % s.params.jbSlots) ∧ t.jbLastValid = true ∧ t.jbRepeats = 0 ∧
        t.jbSlots = s.jbSlots.set (s.jbH % s.params.jbSlots) [] ∧ t.jbSeq0 = s.jbSeq0 ∧ t.jbArmed = s.jbArmed ∧
        t.jbElapsed = s.jbElapsed ∧ JitterFrame s t) ∧
    (HeadDue s → s.jbH ≠ 2 ^ 32 - 1 → slot s (s.jbH % s.params.jbSlots) = [] → s.jbLastValid = true →
      s.jbRepeats < s.params.jbRepeatLimit →
      ∃ t, exec .jbGet s = .next t ∧ Reports t .jbRepeat 0 ∧ OutputBytes t s.jbLast ∧ t.jbH = s.jbH + 1 ∧
        t.jbRepeats = s.jbRepeats + 1 ∧ t.jbLast = s.jbLast ∧ t.jbLastValid = s.jbLastValid ∧
        t.jbSlots = s.jbSlots ∧ t.jbSeq0 = s.jbSeq0 ∧ t.jbArmed = s.jbArmed ∧ t.jbElapsed = s.jbElapsed ∧
        JitterFrame s t) ∧
    (HeadDue s → s.jbH ≠ 2 ^ 32 - 1 → slot s (s.jbH % s.params.jbSlots) = [] →
      (s.jbLastValid = false ∨ s.params.jbRepeatLimit ≤ s.jbRepeats) →
      ∃ t, exec .jbGet s = .next t ∧ Reports t .jbMissing 0 ∧ OutputBytes t [] ∧ t.jbH = s.jbH + 1 ∧
        t.jbRepeats = s.jbRepeats ∧ t.jbLast = s.jbLast ∧ t.jbLastValid = s.jbLastValid ∧ t.jbSlots = s.jbSlots ∧
        t.jbSeq0 = s.jbSeq0 ∧ t.jbArmed = s.jbArmed ∧ t.jbElapsed = s.jbElapsed ∧ JitterFrame s t)

/-- R235: JB_CLOCK ms. -/
def Obligations.JbClockEffect : Prop :=
  IsFN 0x53 .jbClock ∧ ∀ (s : State) (ms : BitVec 16), ∃ t, exec (.jbClock ms) s = .next t ∧ Reports t .ok 0 ∧
    t.jbElapsed = (if s.jbArmed then min (s.jbElapsed + ms.toNat) (2 ^ 32 - 1) else s.jbElapsed) ∧
    t.jbSlots = s.jbSlots ∧ t.jbH = s.jbH ∧ t.jbSeq0 = s.jbSeq0 ∧ t.jbArmed = s.jbArmed ∧ t.jbLast = s.jbLast ∧
    t.jbLastValid = s.jbLastValid ∧ t.jbRepeats = s.jbRepeats ∧ SameOutput s t ∧ JitterFrame s t

/-- R236: after the JB_DATA of a frame, with the next g frames never accepted and the frame after them accepted before
its slot is released, JB_GET once per due slot gives exactly g fillers, the first min(g, JB_REPEAT_LIMIT) of them
repeats of the delivered frame and the rest JB_MISSING, and then the frame after the gap. `cmds a` are the commands
before the a-th JB_GET, counted from 0: any JB_CLOCK, JB_ADD or command of another unit. `w a` is the state before them. -/
def Obligations.SilenceFill : Prop :=
  ∀ (s₀ : State) (g : Nat) (cmds : Nat → List Instr) (w st : Nat → State) (f : List Byte), s₀.Inv →
    exec .jbGet s₀ = .next (w 0) → (w 0).result = .jbData → (w 0).jbH + g < 2 ^ 32 - 1 →
    GetsAfter cmds w st g → GapNeverAccepted cmds w g → NextFrameStored cmds w g f →
    (∀ a < g, if a < s₀.params.jbRepeatLimit then
        (w (a + 1)).result = .jbRepeat ∧ OutputBytes (w (a + 1)) (slot s₀ (s₀.jbH % s₀.params.jbSlots))
      else (w (a + 1)).result = .jbMissing ∧ OutputBytes (w (a + 1)) []) ∧
    (w (g + 1)).result = .jbData ∧ OutputBytes (w (g + 1)) f ∧ (w (g + 1)).jbH = (w 0).jbH + g + 1

/-- R237 (b): an accepted frame stays as it is in its slot until a JB_GET, a JB_RESET or a CLR_ALL. -/
def Obligations.AcceptedFramesKept : Prop :=
  ∀ (i : Instr) (s t : State) (j : Nat), exec i s = .next t → i ≠ .jbGet → i ≠ .jbReset → i ≠ .clrAll →
    slot s j ≠ [] → slot t j = slot s j

/-! ### The whole machine -/

/-- The invariant holds right after reset, for every legal parameter set. -/
def Obligations.InvariantAtReset : Prop :=
  (∀ p : Params, p.legal = true → (State.init p).Inv) ∧ State.reset.Inv

/-- Every step keeps the invariant. -/
def Obligations.StepKeepsInvariant : Prop := ∀ s t : State, s.Inv → StepsTo s t → t.Inv

/-- R300: a command that ends with RESULT = FAULTED has no other effect than the fault's: RESULT, AUX, the sticky
record, and CMD_LAST, which holds the faulting word. -/
def Obligations.FaultedCommandHasNoOtherEffect : Prop :=
  ∀ (w : Word) (s t : State), runCommand w s = .next t → t.result = .faulted →
    ∃ e : ErrCode, e ≠ .noFault ∧ e ≠ .bus ∧ FaultsWith e { s with cmdLast := w } t

/-- R26, R307: once set, FAULT and FAULT_CODE stay until a hardware reset, whatever the host does. -/
def Obligations.FaultStaysUntilReset : Prop :=
  ∀ s t : State, StepsTo s t → ¬ NextEvent s .reset → s.fault = true → t.fault = true ∧ t.faultCode = s.faultCode

/-- R27, R331: no host event changes the parameters. That a hardware reset of a running block keeps them is the model's
choice, notes/assumptions/5.md. -/
def Obligations.ParametersNeverChange : Prop := ∀ s t : State, StepsTo s t → t.params = s.params

/-- R300, R306: the block never stops: every step has a next state. -/
def Obligations.BlockNeverStops : Prop := ∀ s : State, ∃ t, StepsTo s t

/-- R103, R145: a codec command's outcome and output depend only on the IBUF bits R103 lists for it, and BPTC_DEC's on
BPTC_ORDER besides. -/
def Obligations.CodecsReadOnlyTheirInput : Prop :=
  (∀ c ∈ codecInputs, ∀ s s' : State, s.params.bptcOrder = s'.params.bptcOrder →
    (∀ j < c.2, s.ibuf.bit j = s'.ibuf.bit j) →
    ∃ t t', exec c.1 s = .next t ∧ exec c.1 s' = .next t' ∧ SameOutcome t t') ∧
  (∀ (n : BitVec 16) (s s' : State), n ≠ 0 → n.toNat ≤ 1024 → (∀ j < n.toNat, s.ibuf.bit j = s'.ibuf.bit j) →
    ∃ t t', exec (.convEnc n) s = .next t ∧ exec (.convEnc n) s' = .next t' ∧ SameOutcome t t')

/-- R28: no command writes IBUF. -/
def Obligations.CommandsNeverWriteInput : Prop :=
  ∀ (i : Instr) (s t : State), exec i s = .next t → t.ibuf = s.ibuf

end
end

