-- ==== Sys2Proof/Laws/State.lean ====
section
/-! SUPPORT. What each named update of the state does to each field: one lemma per field per update. -/

namespace Sys2Proof.Machine

/-! ### setResult -/

@[simp] theorem setResult_params (r : ResultCode) (a : Byte) (s : State) :
    (setResult r a s).params = s.params := rfl
@[simp] theorem setResult_cmdLast (r : ResultCode) (a : Byte) (s : State) :
    (setResult r a s).cmdLast = s.cmdLast := rfl
@[simp] theorem setResult_result (r : ResultCode) (a : Byte) (s : State) :
    (setResult r a s).result = r := rfl
@[simp] theorem setResult_fault (r : ResultCode) (a : Byte) (s : State) :
    (setResult r a s).fault = s.fault := rfl
@[simp] theorem setResult_faultCode (r : ResultCode) (a : Byte) (s : State) :
    (setResult r a s).faultCode = s.faultCode := rfl
@[simp] theorem setResult_aux (r : ResultCode) (a : Byte) (s : State) :
    (setResult r a s).aux = a := rfl
@[simp] theorem setResult_olen (r : ResultCode) (a : Byte) (s : State) :
    (setResult r a s).olen = s.olen := rfl
@[simp] theorem setResult_ibuf (r : ResultCode) (a : Byte) (s : State) :
    (setResult r a s).ibuf = s.ibuf := rfl
@[simp] theorem setResult_obuf (r : ResultCode) (a : Byte) (s : State) :
    (setResult r a s).obuf = s.obuf := rfl
@[simp] theorem setResult_qdata (r : ResultCode) (a : Byte) (s : State) :
    (setResult r a s).qdata = s.qdata := rfl
@[simp] theorem setResult_jbSlots (r : ResultCode) (a : Byte) (s : State) :
    (setResult r a s).jbSlots = s.jbSlots := rfl
@[simp] theorem setResult_jbH (r : ResultCode) (a : Byte) (s : State) :
    (setResult r a s).jbH = s.jbH := rfl
@[simp] theorem setResult_jbSeq0 (r : ResultCode) (a : Byte) (s : State) :
    (setResult r a s).jbSeq0 = s.jbSeq0 := rfl
@[simp] theorem setResult_jbArmed (r : ResultCode) (a : Byte) (s : State) :
    (setResult r a s).jbArmed = s.jbArmed := rfl
@[simp] theorem setResult_jbElapsed (r : ResultCode) (a : Byte) (s : State) :
    (setResult r a s).jbElapsed = s.jbElapsed := rfl
@[simp] theorem setResult_jbLast (r : ResultCode) (a : Byte) (s : State) :
    (setResult r a s).jbLast = s.jbLast := rfl
@[simp] theorem setResult_jbLastValid (r : ResultCode) (a : Byte) (s : State) :
    (setResult r a s).jbLastValid = s.jbLastValid := rfl
@[simp] theorem setResult_jbRepeats (r : ResultCode) (a : Byte) (s : State) :
    (setResult r a s).jbRepeats = s.jbRepeats := rfl
@[simp] theorem setResult_convStarted (r : ResultCode) (a : Byte) (s : State) :
    (setResult r a s).convStarted = s.convStarted := rfl
@[simp] theorem setResult_convDp (r : ResultCode) (a : Byte) (s : State) :
    (setResult r a s).convDp = s.convDp := rfl
@[simp] theorem setResult_pm (r : ResultCode) (a : Byte) (s : State) :
    (setResult r a s).pm = s.pm := rfl
@[simp] theorem setResult_dec (r : ResultCode) (a : Byte) (s : State) :
    (setResult r a s).dec = s.dec := rfl
@[simp] theorem setResult_inbox (r : ResultCode) (a : Byte) (s : State) :
    (setResult r a s).inbox = s.inbox := rfl
@[simp] theorem setResult_replies (r : ResultCode) (a : Byte) (s : State) :
    (setResult r a s).replies = s.replies := rfl
@[simp] theorem setResult_freeDraws (r : ResultCode) (a : Byte) (s : State) :
    (setResult r a s).freeDraws = s.freeDraws := rfl

/-! ### recordFault -/

@[simp] theorem recordFault_params (e : ErrCode) (s : State) :
    (recordFault e s).params = s.params := by
  unfold recordFault; split <;> rfl
@[simp] theorem recordFault_cmdLast (e : ErrCode) (s : State) :
    (recordFault e s).cmdLast = s.cmdLast := by
  unfold recordFault; split <;> rfl
@[simp] theorem recordFault_result (e : ErrCode) (s : State) :
    (recordFault e s).result = s.result := by
  unfold recordFault; split <;> rfl
@[simp] theorem recordFault_fault (e : ErrCode) (s : State) : (recordFault e s).fault = true := by
  unfold recordFault; split <;> simp_all
@[simp] theorem recordFault_faultCode (e : ErrCode) (s : State) :
    (recordFault e s).faultCode = if s.fault then s.faultCode else e := by
  unfold recordFault; split <;> simp_all
@[simp] theorem recordFault_aux (e : ErrCode) (s : State) : (recordFault e s).aux = s.aux := by
  unfold recordFault; split <;> rfl
@[simp] theorem recordFault_olen (e : ErrCode) (s : State) : (recordFault e s).olen = s.olen := by
  unfold recordFault; split <;> rfl
@[simp] theorem recordFault_ibuf (e : ErrCode) (s : State) : (recordFault e s).ibuf = s.ibuf := by
  unfold recordFault; split <;> rfl
@[simp] theorem recordFault_obuf (e : ErrCode) (s : State) : (recordFault e s).obuf = s.obuf := by
  unfold recordFault; split <;> rfl
@[simp] theorem recordFault_qdata (e : ErrCode) (s : State) : (recordFault e s).qdata = s.qdata := by
  unfold recordFault; split <;> rfl
@[simp] theorem recordFault_jbSlots (e : ErrCode) (s : State) :
    (recordFault e s).jbSlots = s.jbSlots := by
  unfold recordFault; split <;> rfl
@[simp] theorem recordFault_jbH (e : ErrCode) (s : State) : (recordFault e s).jbH = s.jbH := by
  unfold recordFault; split <;> rfl
@[simp] theorem recordFault_jbSeq0 (e : ErrCode) (s : State) :
    (recordFault e s).jbSeq0 = s.jbSeq0 := by
  unfold recordFault; split <;> rfl
@[simp] theorem recordFault_jbArmed (e : ErrCode) (s : State) :
    (recordFault e s).jbArmed = s.jbArmed := by
  unfold recordFault; split <;> rfl
@[simp] theorem recordFault_jbElapsed (e : ErrCode) (s : State) :
    (recordFault e s).jbElapsed = s.jbElapsed := by
  unfold recordFault; split <;> rfl
@[simp] theorem recordFault_jbLast (e : ErrCode) (s : State) :
    (recordFault e s).jbLast = s.jbLast := by
  unfold recordFault; split <;> rfl
@[simp] theorem recordFault_jbLastValid (e : ErrCode) (s : State) :
    (recordFault e s).jbLastValid = s.jbLastValid := by
  unfold recordFault; split <;> rfl
@[simp] theorem recordFault_jbRepeats (e : ErrCode) (s : State) :
    (recordFault e s).jbRepeats = s.jbRepeats := by
  unfold recordFault; split <;> rfl
@[simp] theorem recordFault_convStarted (e : ErrCode) (s : State) :
    (recordFault e s).convStarted = s.convStarted := by
  unfold recordFault; split <;> rfl
@[simp] theorem recordFault_convDp (e : ErrCode) (s : State) :
    (recordFault e s).convDp = s.convDp := by
  unfold recordFault; split <;> rfl
@[simp] theorem recordFault_pm (e : ErrCode) (s : State) : (recordFault e s).pm = s.pm := by
  unfold recordFault; split <;> rfl
@[simp] theorem recordFault_dec (e : ErrCode) (s : State) : (recordFault e s).dec = s.dec := by
  unfold recordFault; split <;> rfl
@[simp] theorem recordFault_inbox (e : ErrCode) (s : State) : (recordFault e s).inbox = s.inbox := by
  unfold recordFault; split <;> rfl
@[simp] theorem recordFault_replies (e : ErrCode) (s : State) :
    (recordFault e s).replies = s.replies := by
  unfold recordFault; split <;> rfl
@[simp] theorem recordFault_freeDraws (e : ErrCode) (s : State) :
    (recordFault e s).freeDraws = s.freeDraws := by
  unfold recordFault; split <;> rfl

/-! ### raiseFault -/

@[simp] theorem raiseFault_params (e : ErrCode) (s : State) : (raiseFault e s).params = s.params := by
  unfold raiseFault recordFault; split <;> simp_all
@[simp] theorem raiseFault_cmdLast (e : ErrCode) (s : State) :
    (raiseFault e s).cmdLast = s.cmdLast := by
  unfold raiseFault recordFault; split <;> simp_all
@[simp] theorem raiseFault_result (e : ErrCode) (s : State) : (raiseFault e s).result = .faulted := by
  unfold raiseFault recordFault; split <;> simp_all
@[simp] theorem raiseFault_fault (e : ErrCode) (s : State) : (raiseFault e s).fault = true := by
  unfold raiseFault recordFault; split <;> simp_all
@[simp] theorem raiseFault_faultCode (e : ErrCode) (s : State) :
    (raiseFault e s).faultCode = if s.fault then s.faultCode else e := by
  unfold raiseFault recordFault; split <;> simp_all
@[simp] theorem raiseFault_aux (e : ErrCode) (s : State) : (raiseFault e s).aux = 0 := by
  unfold raiseFault recordFault; split <;> simp_all
@[simp] theorem raiseFault_olen (e : ErrCode) (s : State) : (raiseFault e s).olen = s.olen := by
  unfold raiseFault recordFault; split <;> simp_all
@[simp] theorem raiseFault_ibuf (e : ErrCode) (s : State) : (raiseFault e s).ibuf = s.ibuf := by
  unfold raiseFault recordFault; split <;> simp_all
@[simp] theorem raiseFault_obuf (e : ErrCode) (s : State) : (raiseFault e s).obuf = s.obuf := by
  unfold raiseFault recordFault; split <;> simp_all
@[simp] theorem raiseFault_qdata (e : ErrCode) (s : State) : (raiseFault e s).qdata = s.qdata := by
  unfold raiseFault recordFault; split <;> simp_all
@[simp] theorem raiseFault_jbSlots (e : ErrCode) (s : State) :
    (raiseFault e s).jbSlots = s.jbSlots := by
  unfold raiseFault recordFault; split <;> simp_all
@[simp] theorem raiseFault_jbH (e : ErrCode) (s : State) : (raiseFault e s).jbH = s.jbH := by
  unfold raiseFault recordFault; split <;> simp_all
@[simp] theorem raiseFault_jbSeq0 (e : ErrCode) (s : State) : (raiseFault e s).jbSeq0 = s.jbSeq0 := by
  unfold raiseFault recordFault; split <;> simp_all
@[simp] theorem raiseFault_jbArmed (e : ErrCode) (s : State) :
    (raiseFault e s).jbArmed = s.jbArmed := by
  unfold raiseFault recordFault; split <;> simp_all
@[simp] theorem raiseFault_jbElapsed (e : ErrCode) (s : State) :
    (raiseFault e s).jbElapsed = s.jbElapsed := by
  unfold raiseFault recordFault; split <;> simp_all
@[simp] theorem raiseFault_jbLast (e : ErrCode) (s : State) : (raiseFault e s).jbLast = s.jbLast := by
  unfold raiseFault recordFault; split <;> simp_all
@[simp] theorem raiseFault_jbLastValid (e : ErrCode) (s : State) :
    (raiseFault e s).jbLastValid = s.jbLastValid := by
  unfold raiseFault recordFault; split <;> simp_all
@[simp] theorem raiseFault_jbRepeats (e : ErrCode) (s : State) :
    (raiseFault e s).jbRepeats = s.jbRepeats := by
  unfold raiseFault recordFault; split <;> simp_all
@[simp] theorem raiseFault_convStarted (e : ErrCode) (s : State) :
    (raiseFault e s).convStarted = s.convStarted := by
  unfold raiseFault recordFault; split <;> simp_all
@[simp] theorem raiseFault_convDp (e : ErrCode) (s : State) : (raiseFault e s).convDp = s.convDp := by
  unfold raiseFault recordFault; split <;> simp_all
@[simp] theorem raiseFault_pm (e : ErrCode) (s : State) : (raiseFault e s).pm = s.pm := by
  unfold raiseFault recordFault; split <;> simp_all
@[simp] theorem raiseFault_dec (e : ErrCode) (s : State) : (raiseFault e s).dec = s.dec := by
  unfold raiseFault recordFault; split <;> simp_all
@[simp] theorem raiseFault_inbox (e : ErrCode) (s : State) : (raiseFault e s).inbox = s.inbox := by
  unfold raiseFault recordFault; split <;> simp_all
@[simp] theorem raiseFault_replies (e : ErrCode) (s : State) :
    (raiseFault e s).replies = s.replies := by
  unfold raiseFault recordFault; split <;> simp_all
@[simp] theorem raiseFault_freeDraws (e : ErrCode) (s : State) :
    (raiseFault e s).freeDraws = s.freeDraws := by
  unfold raiseFault recordFault; split <;> simp_all

/-! ### busFault -/

@[simp] theorem busFault_params (s : State) : (busFault s).params = s.params := by
  unfold busFault recordFault; split <;> simp_all
@[simp] theorem busFault_cmdLast (s : State) : (busFault s).cmdLast = s.cmdLast := by
  unfold busFault recordFault; split <;> simp_all
@[simp] theorem busFault_result (s : State) : (busFault s).result = s.result := by
  unfold busFault recordFault; split <;> simp_all
@[simp] theorem busFault_fault (s : State) : (busFault s).fault = true := by
  unfold busFault recordFault; split <;> simp_all
@[simp] theorem busFault_faultCode (s : State) :
    (busFault s).faultCode = if s.fault then s.faultCode else .bus := by
  unfold busFault recordFault; split <;> simp_all
@[simp] theorem busFault_aux (s : State) : (busFault s).aux = s.aux := by
  unfold busFault recordFault; split <;> simp_all
@[simp] theorem busFault_olen (s : State) : (busFault s).olen = s.olen := by
  unfold busFault recordFault; split <;> simp_all
@[simp] theorem busFault_ibuf (s : State) : (busFault s).ibuf = s.ibuf := by
  unfold busFault recordFault; split <;> simp_all
@[simp] theorem busFault_obuf (s : State) : (busFault s).obuf = s.obuf := by
  unfold busFault recordFault; split <;> simp_all
@[simp] theorem busFault_qdata (s : State) : (busFault s).qdata = s.qdata := by
  unfold busFault recordFault; split <;> simp_all
@[simp] theorem busFault_jbSlots (s : State) : (busFault s).jbSlots = s.jbSlots := by
  unfold busFault recordFault; split <;> simp_all
@[simp] theorem busFault_jbH (s : State) : (busFault s).jbH = s.jbH := by
  unfold busFault recordFault; split <;> simp_all
@[simp] theorem busFault_jbSeq0 (s : State) : (busFault s).jbSeq0 = s.jbSeq0 := by
  unfold busFault recordFault; split <;> simp_all
@[simp] theorem busFault_jbArmed (s : State) : (busFault s).jbArmed = s.jbArmed := by
  unfold busFault recordFault; split <;> simp_all
@[simp] theorem busFault_jbElapsed (s : State) : (busFault s).jbElapsed = s.jbElapsed := by
  unfold busFault recordFault; split <;> simp_all
@[simp] theorem busFault_jbLast (s : State) : (busFault s).jbLast = s.jbLast := by
  unfold busFault recordFault; split <;> simp_all
@[simp] theorem busFault_jbLastValid (s : State) : (busFault s).jbLastValid = s.jbLastValid := by
  unfold busFault recordFault; split <;> simp_all
@[simp] theorem busFault_jbRepeats (s : State) : (busFault s).jbRepeats = s.jbRepeats := by
  unfold busFault recordFault; split <;> simp_all
@[simp] theorem busFault_convStarted (s : State) : (busFault s).convStarted = s.convStarted := by
  unfold busFault recordFault; split <;> simp_all
@[simp] theorem busFault_convDp (s : State) : (busFault s).convDp = s.convDp := by
  unfold busFault recordFault; split <;> simp_all
@[simp] theorem busFault_pm (s : State) : (busFault s).pm = s.pm := by
  unfold busFault recordFault; split <;> simp_all
@[simp] theorem busFault_dec (s : State) : (busFault s).dec = s.dec := by
  unfold busFault recordFault; split <;> simp_all
@[simp] theorem busFault_inbox (s : State) : (busFault s).inbox = s.inbox := by
  unfold busFault recordFault; split <;> simp_all
@[simp] theorem busFault_replies (s : State) : (busFault s).replies = s.replies := by
  unfold busFault recordFault; split <;> simp_all
@[simp] theorem busFault_freeDraws (s : State) : (busFault s).freeDraws = s.freeDraws := by
  unfold busFault recordFault; split <;> simp_all

/-! ### out -/

@[simp] theorem out_params (d : List Bool) (s : State) : (out d s).params = s.params := rfl
@[simp] theorem out_cmdLast (d : List Bool) (s : State) : (out d s).cmdLast = s.cmdLast := rfl
@[simp] theorem out_result (d : List Bool) (s : State) : (out d s).result = s.result := rfl
@[simp] theorem out_fault (d : List Bool) (s : State) : (out d s).fault = s.fault := rfl
@[simp] theorem out_faultCode (d : List Bool) (s : State) : (out d s).faultCode = s.faultCode := rfl
@[simp] theorem out_aux (d : List Bool) (s : State) : (out d s).aux = s.aux := rfl
@[simp] theorem out_olen (d : List Bool) (s : State) : (out d s).olen = d.length := rfl
@[simp] theorem out_ibuf (d : List Bool) (s : State) : (out d s).ibuf = s.ibuf := rfl
@[simp] theorem out_obuf (d : List Bool) (s : State) :
    (out d s).obuf = Memory.ofBytesAt 0 (packBits Config.bufferBytes d) := rfl
@[simp] theorem out_qdata (d : List Bool) (s : State) : (out d s).qdata = s.qdata := rfl
@[simp] theorem out_jbSlots (d : List Bool) (s : State) : (out d s).jbSlots = s.jbSlots := rfl
@[simp] theorem out_jbH (d : List Bool) (s : State) : (out d s).jbH = s.jbH := rfl
@[simp] theorem out_jbSeq0 (d : List Bool) (s : State) : (out d s).jbSeq0 = s.jbSeq0 := rfl
@[simp] theorem out_jbArmed (d : List Bool) (s : State) : (out d s).jbArmed = s.jbArmed := rfl
@[simp] theorem out_jbElapsed (d : List Bool) (s : State) : (out d s).jbElapsed = s.jbElapsed := rfl
@[simp] theorem out_jbLast (d : List Bool) (s : State) : (out d s).jbLast = s.jbLast := rfl
@[simp] theorem out_jbLastValid (d : List Bool) (s : State) :
    (out d s).jbLastValid = s.jbLastValid := rfl
@[simp] theorem out_jbRepeats (d : List Bool) (s : State) : (out d s).jbRepeats = s.jbRepeats := rfl
@[simp] theorem out_convStarted (d : List Bool) (s : State) :
    (out d s).convStarted = s.convStarted := rfl
@[simp] theorem out_convDp (d : List Bool) (s : State) : (out d s).convDp = s.convDp := rfl
@[simp] theorem out_pm (d : List Bool) (s : State) : (out d s).pm = s.pm := rfl
@[simp] theorem out_dec (d : List Bool) (s : State) : (out d s).dec = s.dec := rfl
@[simp] theorem out_inbox (d : List Bool) (s : State) : (out d s).inbox = s.inbox := rfl
@[simp] theorem out_replies (d : List Bool) (s : State) : (out d s).replies = s.replies := rfl
@[simp] theorem out_freeDraws (d : List Bool) (s : State) : (out d s).freeDraws = s.freeDraws := rfl

/-! ### outBytes -/

@[simp] theorem outBytes_params (bs : List Byte) (s : State) : (outBytes bs s).params = s.params := rfl
@[simp] theorem outBytes_cmdLast (bs : List Byte) (s : State) :
    (outBytes bs s).cmdLast = s.cmdLast := rfl
@[simp] theorem outBytes_result (bs : List Byte) (s : State) : (outBytes bs s).result = s.result := rfl
@[simp] theorem outBytes_fault (bs : List Byte) (s : State) : (outBytes bs s).fault = s.fault := rfl
@[simp] theorem outBytes_faultCode (bs : List Byte) (s : State) :
    (outBytes bs s).faultCode = s.faultCode := rfl
@[simp] theorem outBytes_aux (bs : List Byte) (s : State) : (outBytes bs s).aux = s.aux := rfl
@[simp] theorem outBytes_olen (bs : List Byte) (s : State) :
    (outBytes bs s).olen = (bytesBits bs).length := rfl
@[simp] theorem outBytes_ibuf (bs : List Byte) (s : State) : (outBytes bs s).ibuf = s.ibuf := rfl
@[simp] theorem outBytes_obuf (bs : List Byte) (s : State) :
    (outBytes bs s).obuf = Memory.ofBytesAt 0 (packBits Config.bufferBytes (bytesBits bs)) := rfl
@[simp] theorem outBytes_qdata (bs : List Byte) (s : State) : (outBytes bs s).qdata = s.qdata := rfl
@[simp] theorem outBytes_jbSlots (bs : List Byte) (s : State) :
    (outBytes bs s).jbSlots = s.jbSlots := rfl
@[simp] theorem outBytes_jbH (bs : List Byte) (s : State) : (outBytes bs s).jbH = s.jbH := rfl
@[simp] theorem outBytes_jbSeq0 (bs : List Byte) (s : State) : (outBytes bs s).jbSeq0 = s.jbSeq0 := rfl
@[simp] theorem outBytes_jbArmed (bs : List Byte) (s : State) :
    (outBytes bs s).jbArmed = s.jbArmed := rfl
@[simp] theorem outBytes_jbElapsed (bs : List Byte) (s : State) :
    (outBytes bs s).jbElapsed = s.jbElapsed := rfl
@[simp] theorem outBytes_jbLast (bs : List Byte) (s : State) : (outBytes bs s).jbLast = s.jbLast := rfl
@[simp] theorem outBytes_jbLastValid (bs : List Byte) (s : State) :
    (outBytes bs s).jbLastValid = s.jbLastValid := rfl
@[simp] theorem outBytes_jbRepeats (bs : List Byte) (s : State) :
    (outBytes bs s).jbRepeats = s.jbRepeats := rfl
@[simp] theorem outBytes_convStarted (bs : List Byte) (s : State) :
    (outBytes bs s).convStarted = s.convStarted := rfl
@[simp] theorem outBytes_convDp (bs : List Byte) (s : State) : (outBytes bs s).convDp = s.convDp := rfl
@[simp] theorem outBytes_pm (bs : List Byte) (s : State) : (outBytes bs s).pm = s.pm := rfl
@[simp] theorem outBytes_dec (bs : List Byte) (s : State) : (outBytes bs s).dec = s.dec := rfl
@[simp] theorem outBytes_inbox (bs : List Byte) (s : State) : (outBytes bs s).inbox = s.inbox := rfl
@[simp] theorem outBytes_replies (bs : List Byte) (s : State) :
    (outBytes bs s).replies = s.replies := rfl
@[simp] theorem outBytes_freeDraws (bs : List Byte) (s : State) :
    (outBytes bs s).freeDraws = s.freeDraws := rfl

/-! ### clearQueue -/

@[simp] theorem clearQueue_params (s : State) : (clearQueue s).params = s.params := rfl
@[simp] theorem clearQueue_cmdLast (s : State) : (clearQueue s).cmdLast = s.cmdLast := rfl
@[simp] theorem clearQueue_result (s : State) : (clearQueue s).result = s.result := rfl
@[simp] theorem clearQueue_fault (s : State) : (clearQueue s).fault = s.fault := rfl
@[simp] theorem clearQueue_faultCode (s : State) : (clearQueue s).faultCode = s.faultCode := rfl
@[simp] theorem clearQueue_aux (s : State) : (clearQueue s).aux = s.aux := rfl
@[simp] theorem clearQueue_olen (s : State) : (clearQueue s).olen = s.olen := rfl
@[simp] theorem clearQueue_ibuf (s : State) : (clearQueue s).ibuf = s.ibuf := rfl
@[simp] theorem clearQueue_obuf (s : State) : (clearQueue s).obuf = s.obuf := rfl
@[simp] theorem clearQueue_qdata (s : State) : (clearQueue s).qdata = [] := rfl
@[simp] theorem clearQueue_jbSlots (s : State) : (clearQueue s).jbSlots = s.jbSlots := rfl
@[simp] theorem clearQueue_jbH (s : State) : (clearQueue s).jbH = s.jbH := rfl
@[simp] theorem clearQueue_jbSeq0 (s : State) : (clearQueue s).jbSeq0 = s.jbSeq0 := rfl
@[simp] theorem clearQueue_jbArmed (s : State) : (clearQueue s).jbArmed = s.jbArmed := rfl
@[simp] theorem clearQueue_jbElapsed (s : State) : (clearQueue s).jbElapsed = s.jbElapsed := rfl
@[simp] theorem clearQueue_jbLast (s : State) : (clearQueue s).jbLast = s.jbLast := rfl
@[simp] theorem clearQueue_jbLastValid (s : State) : (clearQueue s).jbLastValid = s.jbLastValid := rfl
@[simp] theorem clearQueue_jbRepeats (s : State) : (clearQueue s).jbRepeats = s.jbRepeats := rfl
@[simp] theorem clearQueue_convStarted (s : State) : (clearQueue s).convStarted = s.convStarted := rfl
@[simp] theorem clearQueue_convDp (s : State) : (clearQueue s).convDp = s.convDp := rfl
@[simp] theorem clearQueue_pm (s : State) : (clearQueue s).pm = s.pm := rfl
@[simp] theorem clearQueue_dec (s : State) : (clearQueue s).dec = s.dec := rfl
@[simp] theorem clearQueue_inbox (s : State) : (clearQueue s).inbox = s.inbox := rfl
@[simp] theorem clearQueue_replies (s : State) : (clearQueue s).replies = s.replies := rfl
@[simp] theorem clearQueue_freeDraws (s : State) : (clearQueue s).freeDraws = s.freeDraws := rfl

/-! ### clearJitter -/

@[simp] theorem clearJitter_params (s : State) : (clearJitter s).params = s.params := rfl
@[simp] theorem clearJitter_cmdLast (s : State) : (clearJitter s).cmdLast = s.cmdLast := rfl
@[simp] theorem clearJitter_result (s : State) : (clearJitter s).result = s.result := rfl
@[simp] theorem clearJitter_fault (s : State) : (clearJitter s).fault = s.fault := rfl
@[simp] theorem clearJitter_faultCode (s : State) : (clearJitter s).faultCode = s.faultCode := rfl
@[simp] theorem clearJitter_aux (s : State) : (clearJitter s).aux = s.aux := rfl
@[simp] theorem clearJitter_olen (s : State) : (clearJitter s).olen = s.olen := rfl
@[simp] theorem clearJitter_ibuf (s : State) : (clearJitter s).ibuf = s.ibuf := rfl
@[simp] theorem clearJitter_obuf (s : State) : (clearJitter s).obuf = s.obuf := rfl
@[simp] theorem clearJitter_qdata (s : State) : (clearJitter s).qdata = s.qdata := rfl
@[simp] theorem clearJitter_jbSlots (s : State) :
    (clearJitter s).jbSlots = List.replicate s.params.jbSlots [] := rfl
@[simp] theorem clearJitter_jbH (s : State) : (clearJitter s).jbH = 0 := rfl
@[simp] theorem clearJitter_jbSeq0 (s : State) : (clearJitter s).jbSeq0 = 0 := rfl
@[simp] theorem clearJitter_jbArmed (s : State) : (clearJitter s).jbArmed = false := rfl
@[simp] theorem clearJitter_jbElapsed (s : State) : (clearJitter s).jbElapsed = 0 := rfl
@[simp] theorem clearJitter_jbLast (s : State) : (clearJitter s).jbLast = [] := rfl
@[simp] theorem clearJitter_jbLastValid (s : State) : (clearJitter s).jbLastValid = false := rfl
@[simp] theorem clearJitter_jbRepeats (s : State) : (clearJitter s).jbRepeats = 0 := rfl
@[simp] theorem clearJitter_convStarted (s : State) :
    (clearJitter s).convStarted = s.convStarted := rfl
@[simp] theorem clearJitter_convDp (s : State) : (clearJitter s).convDp = s.convDp := rfl
@[simp] theorem clearJitter_pm (s : State) : (clearJitter s).pm = s.pm := rfl
@[simp] theorem clearJitter_dec (s : State) : (clearJitter s).dec = s.dec := rfl
@[simp] theorem clearJitter_inbox (s : State) : (clearJitter s).inbox = s.inbox := rfl
@[simp] theorem clearJitter_replies (s : State) : (clearJitter s).replies = s.replies := rfl
@[simp] theorem clearJitter_freeDraws (s : State) : (clearJitter s).freeDraws = s.freeDraws := rfl

/-! ### clearDecoder -/

@[simp] theorem clearDecoder_params (s : State) : (clearDecoder s).params = s.params := rfl
@[simp] theorem clearDecoder_cmdLast (s : State) : (clearDecoder s).cmdLast = s.cmdLast := rfl
@[simp] theorem clearDecoder_result (s : State) : (clearDecoder s).result = s.result := rfl
@[simp] theorem clearDecoder_fault (s : State) : (clearDecoder s).fault = s.fault := rfl
@[simp] theorem clearDecoder_faultCode (s : State) : (clearDecoder s).faultCode = s.faultCode := rfl
@[simp] theorem clearDecoder_aux (s : State) : (clearDecoder s).aux = s.aux := rfl
@[simp] theorem clearDecoder_olen (s : State) : (clearDecoder s).olen = s.olen := rfl
@[simp] theorem clearDecoder_ibuf (s : State) : (clearDecoder s).ibuf = s.ibuf := rfl
@[simp] theorem clearDecoder_obuf (s : State) : (clearDecoder s).obuf = s.obuf := rfl
@[simp] theorem clearDecoder_qdata (s : State) : (clearDecoder s).qdata = s.qdata := rfl
@[simp] theorem clearDecoder_jbSlots (s : State) : (clearDecoder s).jbSlots = s.jbSlots := rfl
@[simp] theorem clearDecoder_jbH (s : State) : (clearDecoder s).jbH = s.jbH := rfl
@[simp] theorem clearDecoder_jbSeq0 (s : State) : (clearDecoder s).jbSeq0 = s.jbSeq0 := rfl
@[simp] theorem clearDecoder_jbArmed (s : State) : (clearDecoder s).jbArmed = s.jbArmed := rfl
@[simp] theorem clearDecoder_jbElapsed (s : State) : (clearDecoder s).jbElapsed = s.jbElapsed := rfl
@[simp] theorem clearDecoder_jbLast (s : State) : (clearDecoder s).jbLast = s.jbLast := rfl
@[simp] theorem clearDecoder_jbLastValid (s : State) :
    (clearDecoder s).jbLastValid = s.jbLastValid := rfl
@[simp] theorem clearDecoder_jbRepeats (s : State) : (clearDecoder s).jbRepeats = s.jbRepeats := rfl
@[simp] theorem clearDecoder_convStarted (s : State) : (clearDecoder s).convStarted = false := rfl
@[simp] theorem clearDecoder_convDp (s : State) : (clearDecoder s).convDp = 0 := rfl
@[simp] theorem clearDecoder_pm (s : State) : (clearDecoder s).pm = Vector.replicate 16 0 := rfl
@[simp] theorem clearDecoder_dec (s : State) : (clearDecoder s).dec = Vector.replicate 180 0 := rfl
@[simp] theorem clearDecoder_inbox (s : State) : (clearDecoder s).inbox = s.inbox := rfl
@[simp] theorem clearDecoder_replies (s : State) : (clearDecoder s).replies = s.replies := rfl
@[simp] theorem clearDecoder_freeDraws (s : State) : (clearDecoder s).freeDraws = s.freeDraws := rfl

/-! ### convStepState -/

@[simp] theorem convStepState_params (s0 s1 : Nat) (s : State) :
    (convStepState s0 s1 s).params = s.params := rfl
@[simp] theorem convStepState_cmdLast (s0 s1 : Nat) (s : State) :
    (convStepState s0 s1 s).cmdLast = s.cmdLast := rfl
@[simp] theorem convStepState_result (s0 s1 : Nat) (s : State) :
    (convStepState s0 s1 s).result = s.result := rfl
@[simp] theorem convStepState_fault (s0 s1 : Nat) (s : State) :
    (convStepState s0 s1 s).fault = s.fault := rfl
@[simp] theorem convStepState_faultCode (s0 s1 : Nat) (s : State) :
    (convStepState s0 s1 s).faultCode = s.faultCode := rfl
@[simp] theorem convStepState_aux (s0 s1 : Nat) (s : State) :
    (convStepState s0 s1 s).aux = s.aux := rfl
@[simp] theorem convStepState_olen (s0 s1 : Nat) (s : State) :
    (convStepState s0 s1 s).olen = s.olen := rfl
@[simp] theorem convStepState_ibuf (s0 s1 : Nat) (s : State) :
    (convStepState s0 s1 s).ibuf = s.ibuf := rfl
@[simp] theorem convStepState_obuf (s0 s1 : Nat) (s : State) :
    (convStepState s0 s1 s).obuf = s.obuf := rfl
@[simp] theorem convStepState_qdata (s0 s1 : Nat) (s : State) :
    (convStepState s0 s1 s).qdata = s.qdata := rfl
@[simp] theorem convStepState_jbSlots (s0 s1 : Nat) (s : State) :
    (convStepState s0 s1 s).jbSlots = s.jbSlots := rfl
@[simp] theorem convStepState_jbH (s0 s1 : Nat) (s : State) :
    (convStepState s0 s1 s).jbH = s.jbH := rfl
@[simp] theorem convStepState_jbSeq0 (s0 s1 : Nat) (s : State) :
    (convStepState s0 s1 s).jbSeq0 = s.jbSeq0 := rfl
@[simp] theorem convStepState_jbArmed (s0 s1 : Nat) (s : State) :
    (convStepState s0 s1 s).jbArmed = s.jbArmed := rfl
@[simp] theorem convStepState_jbElapsed (s0 s1 : Nat) (s : State) :
    (convStepState s0 s1 s).jbElapsed = s.jbElapsed := rfl
@[simp] theorem convStepState_jbLast (s0 s1 : Nat) (s : State) :
    (convStepState s0 s1 s).jbLast = s.jbLast := rfl
@[simp] theorem convStepState_jbLastValid (s0 s1 : Nat) (s : State) :
    (convStepState s0 s1 s).jbLastValid = s.jbLastValid := rfl
@[simp] theorem convStepState_jbRepeats (s0 s1 : Nat) (s : State) :
    (convStepState s0 s1 s).jbRepeats = s.jbRepeats := rfl
@[simp] theorem convStepState_convStarted (s0 s1 : Nat) (s : State) :
    (convStepState s0 s1 s).convStarted = s.convStarted := rfl
@[simp] theorem convStepState_convDp (s0 s1 : Nat) (s : State) :
    (convStepState s0 s1 s).convDp = s.convDp + 1 := rfl
@[simp] theorem convStepState_pm (s0 s1 : Nat) (s : State) :
    (convStepState s0 s1 s).pm = acsNew s.pm s.params.convQ s0 s1 := rfl
@[simp] theorem convStepState_dec (s0 s1 : Nat) (s : State) :
    (convStepState s0 s1 s).dec = s.dec.setIfInBounds s.convDp (acsWord s.pm s.params.convQ s0 s1) := rfl
@[simp] theorem convStepState_inbox (s0 s1 : Nat) (s : State) :
    (convStepState s0 s1 s).inbox = s.inbox := rfl
@[simp] theorem convStepState_replies (s0 s1 : Nat) (s : State) :
    (convStepState s0 s1 s).replies = s.replies := rfl
@[simp] theorem convStepState_freeDraws (s0 s1 : Nat) (s : State) :
    (convStepState s0 s1 s).freeDraws = if acsOverflows s.pm s.params.convQ s0 s1 then s.freeDraws + 1 else s.freeDraws := rfl

/-! ### reply -/

@[simp] theorem reply_params (v : Word) (s : State) : (reply v s).params = s.params := rfl
@[simp] theorem reply_cmdLast (v : Word) (s : State) : (reply v s).cmdLast = s.cmdLast := rfl
@[simp] theorem reply_result (v : Word) (s : State) : (reply v s).result = s.result := rfl
@[simp] theorem reply_fault (v : Word) (s : State) : (reply v s).fault = s.fault := rfl
@[simp] theorem reply_faultCode (v : Word) (s : State) : (reply v s).faultCode = s.faultCode := rfl
@[simp] theorem reply_aux (v : Word) (s : State) : (reply v s).aux = s.aux := rfl
@[simp] theorem reply_olen (v : Word) (s : State) : (reply v s).olen = s.olen := rfl
@[simp] theorem reply_ibuf (v : Word) (s : State) : (reply v s).ibuf = s.ibuf := rfl
@[simp] theorem reply_obuf (v : Word) (s : State) : (reply v s).obuf = s.obuf := rfl
@[simp] theorem reply_qdata (v : Word) (s : State) : (reply v s).qdata = s.qdata := rfl
@[simp] theorem reply_jbSlots (v : Word) (s : State) : (reply v s).jbSlots = s.jbSlots := rfl
@[simp] theorem reply_jbH (v : Word) (s : State) : (reply v s).jbH = s.jbH := rfl
@[simp] theorem reply_jbSeq0 (v : Word) (s : State) : (reply v s).jbSeq0 = s.jbSeq0 := rfl
@[simp] theorem reply_jbArmed (v : Word) (s : State) : (reply v s).jbArmed = s.jbArmed := rfl
@[simp] theorem reply_jbElapsed (v : Word) (s : State) : (reply v s).jbElapsed = s.jbElapsed := rfl
@[simp] theorem reply_jbLast (v : Word) (s : State) : (reply v s).jbLast = s.jbLast := rfl
@[simp] theorem reply_jbLastValid (v : Word) (s : State) :
    (reply v s).jbLastValid = s.jbLastValid := rfl
@[simp] theorem reply_jbRepeats (v : Word) (s : State) : (reply v s).jbRepeats = s.jbRepeats := rfl
@[simp] theorem reply_convStarted (v : Word) (s : State) :
    (reply v s).convStarted = s.convStarted := rfl
@[simp] theorem reply_convDp (v : Word) (s : State) : (reply v s).convDp = s.convDp := rfl
@[simp] theorem reply_pm (v : Word) (s : State) : (reply v s).pm = s.pm := rfl
@[simp] theorem reply_dec (v : Word) (s : State) : (reply v s).dec = s.dec := rfl
@[simp] theorem reply_inbox (v : Word) (s : State) : (reply v s).inbox = s.inbox := rfl
@[simp] theorem reply_replies (v : Word) (s : State) : (reply v s).replies = s.replies ++ [v] := rfl
@[simp] theorem reply_freeDraws (v : Word) (s : State) : (reply v s).freeDraws = s.freeDraws := rfl

/-! ### pushCommand -/

@[simp] theorem pushCommand_params (w : Word) (s : State) : (pushCommand w s).params = s.params := rfl
@[simp] theorem pushCommand_cmdLast (w : Word) (s : State) :
    (pushCommand w s).cmdLast = s.cmdLast := rfl
@[simp] theorem pushCommand_result (w : Word) (s : State) : (pushCommand w s).result = s.result := rfl
@[simp] theorem pushCommand_fault (w : Word) (s : State) : (pushCommand w s).fault = s.fault := rfl
@[simp] theorem pushCommand_faultCode (w : Word) (s : State) :
    (pushCommand w s).faultCode = s.faultCode := rfl
@[simp] theorem pushCommand_aux (w : Word) (s : State) : (pushCommand w s).aux = s.aux := rfl
@[simp] theorem pushCommand_olen (w : Word) (s : State) : (pushCommand w s).olen = s.olen := rfl
@[simp] theorem pushCommand_ibuf (w : Word) (s : State) : (pushCommand w s).ibuf = s.ibuf := rfl
@[simp] theorem pushCommand_obuf (w : Word) (s : State) : (pushCommand w s).obuf = s.obuf := rfl
@[simp] theorem pushCommand_qdata (w : Word) (s : State) : (pushCommand w s).qdata = s.qdata := rfl
@[simp] theorem pushCommand_jbSlots (w : Word) (s : State) :
    (pushCommand w s).jbSlots = s.jbSlots := rfl
@[simp] theorem pushCommand_jbH (w : Word) (s : State) : (pushCommand w s).jbH = s.jbH := rfl
@[simp] theorem pushCommand_jbSeq0 (w : Word) (s : State) : (pushCommand w s).jbSeq0 = s.jbSeq0 := rfl
@[simp] theorem pushCommand_jbArmed (w : Word) (s : State) :
    (pushCommand w s).jbArmed = s.jbArmed := rfl
@[simp] theorem pushCommand_jbElapsed (w : Word) (s : State) :
    (pushCommand w s).jbElapsed = s.jbElapsed := rfl
@[simp] theorem pushCommand_jbLast (w : Word) (s : State) : (pushCommand w s).jbLast = s.jbLast := rfl
@[simp] theorem pushCommand_jbLastValid (w : Word) (s : State) :
    (pushCommand w s).jbLastValid = s.jbLastValid := rfl
@[simp] theorem pushCommand_jbRepeats (w : Word) (s : State) :
    (pushCommand w s).jbRepeats = s.jbRepeats := rfl
@[simp] theorem pushCommand_convStarted (w : Word) (s : State) :
    (pushCommand w s).convStarted = s.convStarted := rfl
@[simp] theorem pushCommand_convDp (w : Word) (s : State) : (pushCommand w s).convDp = s.convDp := rfl
@[simp] theorem pushCommand_pm (w : Word) (s : State) : (pushCommand w s).pm = s.pm := rfl
@[simp] theorem pushCommand_dec (w : Word) (s : State) : (pushCommand w s).dec = s.dec := rfl
@[simp] theorem pushCommand_inbox (w : Word) (s : State) :
    (pushCommand w s).inbox = .write s.params.blockBase 32 w :: s.inbox := rfl
@[simp] theorem pushCommand_replies (w : Word) (s : State) :
    (pushCommand w s).replies = s.replies := rfl
@[simp] theorem pushCommand_freeDraws (w : Word) (s : State) :
    (pushCommand w s).freeDraws = s.freeDraws := rfl

end Sys2Proof.Machine
end

