-- ==== Sys2Proof/Laws/Block.lean ====
section
/-! SUPPORT. A command's effect is a function of the block's state and the command alone (40_system.md R102). -/

namespace Sys2Proof.Machine

/-- `s` with other values of the model's own fields, which are no state of the block. -/
def State.withOwn (b : List HostEvent) (r : List Word) (d : Nat) (s : State) : State :=
  { s with inbox := b, replies := r, freeDraws := d }

section
variable (b : List HostEvent) (r : List Word) (d : Nat) (s : State)

@[simp] theorem withOwn_params : (s.withOwn b r d).params = s.params := rfl
@[simp] theorem withOwn_fault : (s.withOwn b r d).fault = s.fault := rfl
@[simp] theorem withOwn_ibuf : (s.withOwn b r d).ibuf = s.ibuf := rfl
@[simp] theorem withOwn_qdata : (s.withOwn b r d).qdata = s.qdata := rfl
@[simp] theorem withOwn_jbSlots : (s.withOwn b r d).jbSlots = s.jbSlots := rfl
@[simp] theorem withOwn_jbH : (s.withOwn b r d).jbH = s.jbH := rfl
@[simp] theorem withOwn_jbSeq0 : (s.withOwn b r d).jbSeq0 = s.jbSeq0 := rfl
@[simp] theorem withOwn_jbArmed : (s.withOwn b r d).jbArmed = s.jbArmed := rfl
@[simp] theorem withOwn_jbElapsed : (s.withOwn b r d).jbElapsed = s.jbElapsed := rfl
@[simp] theorem withOwn_jbLast : (s.withOwn b r d).jbLast = s.jbLast := rfl
@[simp] theorem withOwn_jbLastValid : (s.withOwn b r d).jbLastValid = s.jbLastValid := rfl
@[simp] theorem withOwn_jbRepeats : (s.withOwn b r d).jbRepeats = s.jbRepeats := rfl
@[simp] theorem withOwn_convStarted : (s.withOwn b r d).convStarted = s.convStarted := rfl
@[simp] theorem withOwn_convDp : (s.withOwn b r d).convDp = s.convDp := rfl
@[simp] theorem withOwn_pm : (s.withOwn b r d).pm = s.pm := rfl
@[simp] theorem withOwn_dec : (s.withOwn b r d).dec = s.dec := rfl
@[simp] theorem inputBits_withOwn (n : Nat) : inputBits n (s.withOwn b r d) = inputBits n s := rfl
@[simp] theorem inputBytes_withOwn (n : Nat) : inputBytes n (s.withOwn b r d) = inputBytes n s := rfl
@[simp] theorem setResult_withOwn (c : ResultCode) (a : Byte) :
    setResult c a (s.withOwn b r d) = (setResult c a s).withOwn b r d := rfl
@[simp] theorem out_withOwn (x : List Bool) : out x (s.withOwn b r d) = (out x s).withOwn b r d := rfl
@[simp] theorem outBytes_withOwn (x : List Byte) : outBytes x (s.withOwn b r d) = (outBytes x s).withOwn b r d := rfl
@[simp] theorem raiseFault_withOwn (e : ErrCode) :
    raiseFault e (s.withOwn b r d) = (raiseFault e s).withOwn b r d := by
  by_cases h : s.fault
  · simp [raiseFault, recordFault, h]
  · simp [raiseFault, recordFault, h]
    rfl
@[simp] theorem withOwn_jbRunning : (s.withOwn b r d).jbRunning = s.jbRunning := rfl
@[simp] theorem withOwn_jbDue : (s.withOwn b r d).jbDue = s.jbDue := rfl
@[simp] theorem jbHeadIndex_withOwn : jbHeadIndex (s.withOwn b r d) = jbHeadIndex s := rfl
@[simp] theorem jbSlot_withOwn (i : Nat) : jbSlot (s.withOwn b r d) i = jbSlot s i := rfl
@[simp] theorem jbDeliver_withOwn : jbDeliver (s.withOwn b r d) = (jbDeliver s).withOwn b r d := by
  show setResult .jbData 0 (outBytes (jbSlot s (jbHeadIndex s)) (State.withOwn b r d
    { s with
      jbH := s.jbH + 1
      jbLast := jbSlot s (jbHeadIndex s)
      jbLastValid := true
      jbRepeats := 0
      jbSlots := s.jbSlots.set (jbHeadIndex s) [] })) = _
  rw [outBytes_withOwn, setResult_withOwn]
  rfl
@[simp] theorem jbRepeatLast_withOwn : jbRepeatLast (s.withOwn b r d) = (jbRepeatLast s).withOwn b r d := by
  show setResult .jbRepeat 0 (outBytes s.jbLast (State.withOwn b r d
    { s with jbH := s.jbH + 1, jbRepeats := s.jbRepeats + 1 })) = _
  rw [outBytes_withOwn, setResult_withOwn]
  rfl
@[simp] theorem jbMiss_withOwn : jbMiss (s.withOwn b r d) = (jbMiss s).withOwn b r d := by
  show setResult .jbMissing 0 (out [] (State.withOwn b r d { s with jbH := s.jbH + 1 })) = _
  rw [out_withOwn, setResult_withOwn]
  rfl
@[simp] theorem jbStore_withOwn (i q : Nat) (f : List Byte) :
    jbStore i q f (s.withOwn b r d) = (jbStore i q f s).withOwn b r d := by
  by_cases h : s.jbArmed <;> simp only [jbStore, withOwn_jbArmed, withOwn_jbSlots, h] <;> rfl

/-- A next state with other values of the model's own fields; a stop has none. -/
def onNext (f : State → State) : Host.Outcome State Fault Refusal → Host.Outcome State Fault Refusal
  | .next t => .next (f t)
  | .fault e => .fault e
  | .refused e => .refused e

@[simp] theorem onNext_next (f : State → State) (t : State) : onNext f (.next t) = .next (f t) := rfl

/-- `onNext` goes into both branches of a check. -/
@[simp] theorem onNext_ite (f : State → State) (p : Prop) [Decidable p] (x y : Host.Outcome State Fault Refusal) :
    onNext f (if p then x else y) = if p then onNext f x else onNext f y := apply_ite _ _ _ _

/-- R102: what a command does to the block does not depend on the model's own fields. -/
theorem exec_reads_block_only (i : Instr) :
    ∃ e, exec i (s.withOwn b r d) = onNext (State.withOwn b r e) (exec i s) := by
  cases i
  case convStep s0 s1 =>
    refine ⟨if convStepBadOperand s.params s0 s1 || !s.convStarted || decide (s.convDp = Config.convMaxSteps) then d
      else if acsOverflows s.pm s.params.convQ s0.toNat s1.toNat then d + 1 else d, ?_⟩
    by_cases h1 : convStepBadOperand s.params s0 s1
    · simp [exec, execConvStep, h1]
    by_cases h2 : s.convStarted
    · by_cases h3 : s.convDp = Config.convMaxSteps
      · simp [exec, execConvStep, h1, h2, h3]
      · simp only [exec, execConvStep, withOwn_params, withOwn_convStarted, withOwn_convDp, h1, h2, h3, decide_false, Bool.or_false, Bool.not_true, Bool.false_eq_true, if_false]
        rfl
    · simp [exec, execConvStep, h1, h2]
  case convChainback n =>
    refine ⟨d, ?_⟩
    simp only [exec, execConvChainback, withOwn_convStarted, withOwn_convDp, withOwn_dec, raiseFault_withOwn, onNext_ite,
      onNext_next]
    rfl
  case convEnc => exact ⟨d, by simp [exec, execConvEnc]⟩
  case jbAdd len q =>
    exact ⟨d, by simp [exec, execJbAdd, jbDistance, jbTarget, jbAnchor, jbSlot]; rfl⟩
  case jbGet =>
    refine ⟨d, ?_⟩
    by_cases h : s.jbRepeats < s.params.jbRepeatLimit <;> simp [exec, execJbGet, h]
  case jbClock =>
    refine ⟨d, ?_⟩
    by_cases h : s.jbArmed
    · simp only [exec, execJbClock, withOwn_jbArmed, h, if_true]
      rfl
    · simp [exec, execJbClock, h]
  case qPush => exact ⟨d, by simp [exec, execQPush, State.qUsed]; rfl⟩
  case qPop =>
    refine ⟨d, ?_⟩
    simp only [exec, execQPop, withOwn_qdata]
    cases s.qdata with
    | nil => simp
    | cons n rest =>
      show Host.Outcome.next (setResult .ok 0 (outBytes (rest.take n.toNat)
        (State.withOwn b r d { s with qdata := rest.drop n.toNat }))) = _
      rw [outBytes_withOwn, setResult_withOwn, onNext_next]
  all_goals exact ⟨d, by
    simp [exec, execNop, execClrAll, execQClear, execH15113aEnc, execH15113aDec, execH15113bEnc, execH15113bDec,
      execH1393Enc, execH1393Dec, execH17123Enc, execH17123Dec, hammingEncode, hammingDecode, execGolayEnc, golayInput,
      execGolayDec, execBptcEnc, execBptcDec, execConvStart, execJbReset] <;> rfl⟩
end
end Sys2Proof.Machine
end

