-- ==== Sys2Proof/Laws/Memory.lean ====
section
/-! SUPPORT. The byte buffers: read after write, the canonical form, the output primitive and the bit order. -/

namespace Sys2Proof.Machine

/-- The canonical form as propositions. -/
theorem Memory.wf_iff (m : Memory) :
    m.wf = true ↔ m.Pairwise (fun x y => x.1 < y.1) ∧ ∀ c ∈ m, c.2 ≠ Memory.unlisted := by
  simp [Memory.wf]

/-- The buffer's range as a proposition. -/
theorem Memory.inBuffer_iff (m : Memory) : m.inBuffer = true ↔ ∀ c ∈ m, c.1 < 256 := by
  simp [Memory.inBuffer]

@[simp] theorem Memory.read_nil (a : Nat) : Memory.read [] a = Memory.unlisted := rfl

/-- A byte at an index that is not listed. -/
theorem Memory.read_of_not_listed {m : Memory} {a : Nat} (h : ∀ c ∈ m, c.1 ≠ a) :
    m.read a = Memory.unlisted := by
  induction m with
  | nil => rfl
  | cons c rest ih =>
    obtain ⟨b, v⟩ := c
    have hb : a ≠ b := fun e => h (b, v) (by simp) e.symm
    simp [Memory.read, hb, ih fun c hc => h c (by simp [hc])]

/-- Past the buffer every byte reads as unlisted. -/
theorem Memory.read_past {m : Memory} (h : m.inBuffer = true) {a : Nat} (ha : 256 ≤ a) :
    m.read a = Memory.unlisted :=
  Memory.read_of_not_listed fun c hc => by have := (Memory.inBuffer_iff m).1 h c hc; omega

/-- Every listed index of a write was listed before or is the one written. -/
theorem Memory.mem_write {m : Memory} {a : Nat} {v : Byte} {c : Host.Cell} (h : c ∈ m.write a v) :
    c ∈ m ∨ (c = (a, v) ∧ v ≠ Memory.unlisted) := by
  induction m with
  | nil => by_cases hv : v = Memory.unlisted <;> simp_all [Memory.write]
  | cons d rest ih =>
    obtain ⟨b, w⟩ := d
    simp only [Memory.write] at h
    split_ifs at h <;> simp only [List.mem_cons] at h ⊢
    · tauto
    · tauto
    · tauto
    · tauto
    · rcases h with h | h
      · tauto
      · have := ih h; tauto

/-- A write keeps the canonical form. -/
theorem Memory.write_wf {m : Memory} (h : m.wf = true) (a : Nat) (v : Byte) : (m.write a v).wf = true := by
  rw [Memory.wf_iff] at h ⊢
  obtain ⟨hs, hz⟩ := h
  refine ⟨?_, fun c hc => ?_⟩
  · induction m with
    | nil => by_cases hv : v = Memory.unlisted <;> simp [Memory.write, hv]
    | cons d rest ih =>
      obtain ⟨b, w⟩ := d
      have hrest := List.pairwise_cons.1 hs
      simp only [Memory.write]
      split_ifs with h1 h2 h3 h4
      · exact hs
      · refine List.pairwise_cons.2 ⟨fun c hc => ?_, hs⟩
        rcases List.mem_cons.1 hc with rfl | hc
        · exact h1
        · exact lt_trans h1 (hrest.1 c hc)
      · exact hrest.2
      · subst h3
        exact List.pairwise_cons.2 ⟨fun c hc => hrest.1 c hc, hrest.2⟩
      · refine List.pairwise_cons.2 ⟨fun c hc => ?_, ih hrest.2 fun c hc => hz c (by simp [hc])⟩
        rcases Memory.mem_write hc with hc | ⟨rfl, -⟩
        · exact hrest.1 c hc
        · show b < a
          omega
  · rcases Memory.mem_write hc with hc | ⟨rfl, hv⟩
    · exact hz c hc
    · exact hv

/-- A write inside the buffer keeps every listed index inside it. -/
theorem Memory.write_inBuffer {m : Memory} (h : m.inBuffer = true) {a : Nat} (ha : a < 256) (v : Byte) :
    (m.write a v).inBuffer = true := by
  rw [Memory.inBuffer_iff] at h ⊢
  intro c hc
  rcases Memory.mem_write hc with hc | ⟨rfl, -⟩
  · exact h c hc
  · exact ha

/-- What a byte reads as after a write: the value written there, and elsewhere what it read before. -/
theorem Memory.read_write {m : Memory} (h : m.wf = true) (a b : Nat) (v : Byte) :
    (m.write a v).read b = if b = a then v else m.read b := by
  rw [Memory.wf_iff] at h
  obtain ⟨hs, -⟩ := h
  induction m with
  | nil => by_cases hv : v = Memory.unlisted <;> by_cases hb : b = a <;> simp [Memory.write, Memory.read, hv, hb]
  | cons d rest ih =>
    obtain ⟨c, w⟩ := d
    have hrest := List.pairwise_cons.1 hs
    have absent : ∀ x, x ≤ c → Memory.read rest x = Memory.unlisted := fun x hx =>
      Memory.read_of_not_listed fun y hy => by
        have h2 : c < y.1 := hrest.1 y hy
        omega
    have ih := ih hrest.2
    simp only [Memory.write]
    split_ifs <;> (try simp only [Memory.read]) <;> (try split_ifs) <;>
      first
      | rfl
      | omega
      | (subst_vars; simp_all; done)
      | (subst_vars; have := absent b (by omega); simp_all)

/-- Reading the buffer made of a byte list. -/
theorem Memory.read_ofBytesAt (a b : Nat) (bs : List Byte) :
    (Memory.ofBytesAt a bs).read b = if a ≤ b then bs.getD (b - a) Memory.unlisted else Memory.unlisted := by
  induction bs generalizing a with
  | nil => simp [Memory.ofBytesAt]
  | cons v rest ih =>
    simp only [Memory.ofBytesAt]
    rcases Nat.lt_trichotomy b a with h | rfl | h
    · have h1 : ¬ a ≤ b := by omega
      have h2 : ¬ a + 1 ≤ b := by omega
      have h3 : b ≠ a := by omega
      split_ifs <;> simp [Memory.read, ih, h2, h3]
    · split_ifs with hv <;> simp_all [Memory.read]
    · have h1 : a ≤ b := by omega
      have h2 : a + 1 ≤ b := by omega
      have h3 : b ≠ a := by omega
      have h4 : b - a = (b - (a + 1)) + 1 := by omega
      split_ifs <;> simp [Memory.read, ih, h2, h3, h4]

/-- The listed indices of the buffer made of a byte list. -/
theorem Memory.mem_ofBytesAt {a : Nat} {bs : List Byte} {c : Host.Cell} (h : c ∈ Memory.ofBytesAt a bs) :
    a ≤ c.1 ∧ c.1 < a + bs.length ∧ c.2 ≠ Memory.unlisted := by
  induction bs generalizing a with
  | nil => simp [Memory.ofBytesAt] at h
  | cons v rest ih =>
    simp only [Memory.ofBytesAt] at h
    simp only [List.length_cons]
    split_ifs at h with hv
    · obtain ⟨h1, h2, h3⟩ := ih h
      exact ⟨by omega, by omega, h3⟩
    · rcases List.mem_cons.1 h with rfl | h
      · exact ⟨le_refl _, by simp, hv⟩
      · obtain ⟨h1, h2, h3⟩ := ih h
        exact ⟨by omega, by omega, h3⟩

/-- The buffer made of a byte list is in canonical form. -/
theorem Memory.ofBytesAt_wf (a : Nat) (bs : List Byte) : (Memory.ofBytesAt a bs).wf = true := by
  rw [Memory.wf_iff]
  refine ⟨?_, fun c hc => (Memory.mem_ofBytesAt hc).2.2⟩
  induction bs generalizing a with
  | nil => simp [Memory.ofBytesAt]
  | cons v rest ih =>
    simp only [Memory.ofBytesAt]
    split_ifs
    · exact ih (a + 1)
    · exact List.pairwise_cons.2 ⟨fun c hc => by have := (Memory.mem_ofBytesAt hc).1; simp only; omega, ih (a + 1)⟩

/-- The buffer made of at most 256 bytes from index 0 lies inside the buffer. -/
theorem Memory.ofBytesAt_inBuffer {bs : List Byte} (h : bs.length ≤ 256) :
    (Memory.ofBytesAt 0 bs).inBuffer = true := by
  rw [Memory.inBuffer_iff]
  intro c hc
  have := Memory.mem_ofBytesAt hc
  omega

/-- Two buffers in canonical form that read the same are equal. -/
theorem Memory.ext_of_read {m m' : Memory} (h : m.wf = true) (h' : m'.wf = true)
    (hr : ∀ a, m.read a = m'.read a) : m = m' := by
  induction m generalizing m' with
  | nil =>
    cases m' with
    | nil => rfl
    | cons c rest =>
      have := ((Memory.wf_iff _).1 h').2 c (by simp)
      have := hr c.1
      obtain ⟨b, v⟩ := c
      simp_all [Memory.read]
  | cons c rest ih =>
    obtain ⟨b, v⟩ := c
    obtain ⟨hs, hz⟩ := (Memory.wf_iff _).1 h
    have hrest := List.pairwise_cons.1 hs
    have hv : v ≠ Memory.unlisted := hz (b, v) (by simp)
    cases m' with
    | nil => have := hr b; simp_all [Memory.read]
    | cons c' rest' =>
      obtain ⟨b', v'⟩ := c'
      obtain ⟨hs', hz'⟩ := (Memory.wf_iff _).1 h'
      have hrest' := List.pairwise_cons.1 hs'
      have hv' : v' ≠ Memory.unlisted := hz' (b', v') (by simp)
      have none1 : ∀ x, x ≤ b → Memory.read rest x = Memory.unlisted := fun x hx =>
        Memory.read_of_not_listed fun y hy => by
          have h2 : b < y.1 := hrest.1 y hy
          omega
      have none2 : ∀ x, x ≤ b' → Memory.read rest' x = Memory.unlisted := fun x hx =>
        Memory.read_of_not_listed fun y hy => by
          have h2 : b' < y.1 := hrest'.1 y hy
          omega
      have hb : b = b' := by
        rcases Nat.lt_trichotomy b b' with hlt | heq | hgt
        · have h1 := hr b
          rw [Memory.read, Memory.read, if_pos rfl, if_neg (by omega), none2 b (by omega)] at h1
          exact absurd h1 hv
        · exact heq
        · have h1 := hr b'
          rw [Memory.read, Memory.read, if_pos rfl, if_neg (by omega), none1 b' (by omega)] at h1
          exact absurd h1.symm hv'
      subst hb
      have hvv : v = v' := by have h1 := hr b; simpa [Memory.read] using h1
      subst hvv
      have hw : Memory.wf rest = true := (Memory.wf_iff _).2 ⟨hrest.2, fun c hc => hz c (by simp [hc])⟩
      have hw' : Memory.wf rest' = true := (Memory.wf_iff _).2 ⟨hrest'.2, fun c hc => hz' c (by simp [hc])⟩
      rw [ih hw hw' fun a => ?_]
      by_cases ha : a = b
      · rw [ha, none1 b (le_refl _), none2 b (le_refl _)]
      · have h1 := hr a
        simpa [Memory.read, ha] using h1

/-- The bits of a byte made of a bit sequence (R52). -/
theorem byteOfBits_getLsbD (d : List Bool) (j : Nat) (hj : j < 8) :
    (byteOfBits d).getLsbD (7 - j) = d.getD j false := by
  unfold byteOfBits
  interval_cases j <;> cases d.getD 0 false <;> cases d.getD 1 false <;> cases d.getD 2 false <;>
    cases d.getD 3 false <;> cases d.getD 4 false <;> cases d.getD 5 false <;> cases d.getD 6 false <;>
    cases d.getD 7 false <;> rfl

@[simp] theorem packBits_length (n : Nat) (d : List Bool) : (packBits n d).length = n := by
  induction n generalizing d with
  | zero => rfl
  | succ n ih => simp [packBits, ih]

/-- Byte a of a packed bit sequence. -/
theorem packBits_getD (n : Nat) (d : List Bool) (a : Nat) (h : a < n) :
    (packBits n d).getD a Memory.unlisted = byteOfBits (d.drop (8 * a)) := by
  induction n generalizing d a with
  | zero => omega
  | succ n ih =>
    cases a with
    | zero => simp [packBits]
    | succ a =>
      rw [packBits, List.getD_cons_succ, ih _ _ (by omega), List.drop_drop]
      congr 2
      ring

/-- The bits of OBUF after `OUT(d)`: `d`, then 0 in every remaining bit (R11, R29). -/
theorem out_bit (d : List Bool) (s : State) (i : Nat) :
    (out d s).obuf.bit i = (decide (i < 2048) && d.getD i false) := by
  show Memory.bit (Memory.ofBytesAt 0 (packBits 256 d)) i = _
  unfold Memory.bit
  rw [Memory.read_ofBytesAt, if_pos (Nat.zero_le _), Nat.sub_zero]
  by_cases h : i < 2048
  · rw [packBits_getD _ _ _ (by omega), byteOfBits_getLsbD _ _ (by omega)]
    simp only [h, decide_true, Bool.true_and]
    rw [List.getD_eq_getElem?_getD, List.getElem?_drop, ← List.getD_eq_getElem?_getD, Nat.div_add_mod]
  · rw [List.getD_eq_default _ _ (by simp; omega)]
    simp [h, Memory.unlisted]

/-- OBUF after `OUT` is in canonical form. -/
theorem out_wf (d : List Bool) (s : State) : (out d s).obuf.wf = true := Memory.ofBytesAt_wf 0 _

/-- OBUF after `OUT` lies inside the buffer. -/
theorem out_inBuffer (d : List Bool) (s : State) : (out d s).obuf.inBuffer = true :=
  Memory.ofBytesAt_inBuffer (by simp)

@[simp] theorem byteBits_length (b : Byte) : (byteBits b).length = 8 := by simp [byteBits]

@[simp] theorem bytesBits_length (bs : List Byte) : (bytesBits bs).length = 8 * bs.length := by
  induction bs with
  | nil => rfl
  | cons b rest ih => simp only [bytesBits, List.flatMap_cons, List.length_append, byteBits_length,
      List.length_cons] at *; omega

/-- Bit i of a byte list is bit 7 - (i mod 8) of byte i div 8 (R52). -/
theorem bytesBits_getD (bs : List Byte) (i : Nat) :
    (bytesBits bs).getD i false = (bs.getD (i / 8) 0).getLsbD (7 - i % 8) := by
  induction bs generalizing i with
  | nil => simp [bytesBits]
  | cons b rest ih =>
    have hcons : bytesBits (b :: rest) = byteBits b ++ bytesBits rest := rfl
    by_cases h : i < 8
    · have h0 : i / 8 = 0 := by omega
      have h1 : i % 8 = i := by omega
      rw [hcons, List.getD_append _ _ _ _ (by simpa using h), h0, h1]
      simp [byteBits, h]
    · have h0 : i / 8 = (i - 8) / 8 + 1 := by omega
      have h1 : i % 8 = (i - 8) % 8 := by omega
      rw [hcons, List.getD_append_right _ _ _ _ (by simp; omega), byteBits_length, ih, h0, h1]
      simp

@[simp] theorem Memory.bits_length (m : Memory) (n : Nat) : (m.bits n).length = n := by simp [Memory.bits]

@[simp] theorem Memory.bytes_length (m : Memory) (n : Nat) : (m.bytes n).length = n := by simp [Memory.bytes]

/-- Bit i of the first n bits of a buffer. -/
theorem Memory.bits_getD (m : Memory) (n i : Nat) (h : i < n) : (m.bits n).getD i false = m.bit i := by
  simp [Memory.bits, h]

/-- Byte a of the first n bytes of a buffer. -/
theorem Memory.bytes_getD (m : Memory) (n a : Nat) (h : a < n) : (m.bytes n).getD a 0 = m.read a := by
  simp [Memory.bytes, h]

/-- Buffers that read the same have the same bits. -/
theorem Memory.bit_congr {m m' : Memory} (h : ∀ a, m.read a = m'.read a) (i : Nat) : m.bit i = m'.bit i := by
  simp [Memory.bit, h]

end Sys2Proof.Machine
end

