-- ==== Sys2Proof/Laws/Operations.lean ====
section
/-! SUPPORT. What the operations of the meanings can do, each said once: the host side, modular distances, the sizes
of codewords and outputs, the queue's records, the trellis step. -/

namespace Sys2Proof.Machine

/-! ### Outcomes and steps -/

/-- Two next states are equal outcomes exactly when they are equal states. -/
theorem next_inj {a b : State} : (.next a : Host.Outcome State Fault Refusal) = .next b ↔ a = b :=
  ⟨fun h => by injection h, fun h => by rw [h]⟩

/-- A step takes the next host event (R50). -/
theorem step_cons {s : State} {e : HostEvent} {rest : List HostEvent} (h : s.inbox = e :: rest) :
    step s = hostEvent e { s with inbox := rest } := by
  simp [step, takeEvent, h]

/-- A step with no host event holds the state (R314). -/
theorem step_nil {s : State} (h : s.inbox = []) : step s = .next s := by
  simp [step, takeEvent, h]

/-- The block-relative address of an access in the window (R35, R60). -/
theorem toBlockAddr_add (p : Params) {a : Nat} (h : a < 4096) : toBlockAddr p (p.blockBase + a) = some a := by
  unfold toBlockAddr Config.windowBytes
  rw [if_pos (by omega)]
  simp

/-- An address outside the window is not the block's (R60, R65). -/
theorem toBlockAddr_outside (p : Params) {addr : Nat} (h : addr < p.blockBase ∨ p.blockBase + 4096 ≤ addr) :
    toBlockAddr p addr = none := by
  unfold toBlockAddr Config.windowBytes
  rw [if_neg (by omega)]

/-- Exactly the twelve register addresses hold a register (R23, R55, R56). -/
theorem registerAt_isSome (s : State) (a : Nat) : (registerAt s a).isSome = true ↔ a < 0x30 ∧ a % 4 = 0 := by
  constructor
  · intro h
    unfold registerAt at h
    split at h <;> first | omega | simp at h
  · rintro ⟨h1, h2⟩
    have : a = 0 ∨ a = 4 ∨ a = 8 ∨ a = 12 ∨ a = 16 ∨ a = 20 ∨ a = 24 ∨ a = 28 ∨ a = 32 ∨ a = 36 ∨ a = 40 ∨ a = 44 := by
      omega
    rcases this with rfl | rfl | rfl | rfl | rfl | rfl | rfl | rfl | rfl | rfl | rfl | rfl <;> rfl

/-! ### Formats -/

/-- The reserved fields of format F0 are CW[31:8] (R71, R76). -/
theorem reserved_F0 (cw : Word) : (cwLen8 cw = 0 ∧ cwImm16 cw = 0) ↔ cw.extractLsb' 8 24 = 0 := by
  have e : cw.extractLsb' 8 24 = cwImm16 cw ++ cwLen8 cw := by
    refine BitVec.eq_of_getLsbD_eq fun i hi => ?_
    simp only [cwImm16, cwLen8, BitVec.getLsbD_append, BitVec.getLsbD_extractLsb']
    by_cases h : i < 8
    · simp [h, hi]
    · simp [h, hi, show i - 8 < 16 by omega, show 16 + (i - 8) = 8 + i by omega]
  rw [e]
  constructor
  · rintro ⟨h1, h2⟩
    rw [h1, h2]
    rfl
  · intro h
    have h1 := congrArg (BitVec.extractLsb' 0 8) h
    have h2 := congrArg (BitVec.extractLsb' 8 16) h
    rw [BitVec.extractLsb'_append_eq_right] at h1
    rw [BitVec.extractLsb'_append_eq_left] at h2
    exact ⟨by simpa using h1, by simpa using h2⟩

/-! ### Sequence numbers -/

/-- `subMod` is the non-negative residue of the difference (R10, R104). -/
theorem subMod_eq (a : Nat) {b m : Nat} (hb : b < m) : (subMod a b m : Int) = ((a : Int) - b) % m := by
  unfold subMod
  rw [Nat.mod_eq_of_lt hb, Int.natCast_mod, Int.natCast_add, Int.natCast_sub hb.le]
  rw [show (a : Int) + (m - b) = a - b + m by ring]
  simp

/-- A distance is below the modulus (R10). -/
theorem subMod_lt (a b : Nat) {m : Nat} (hm : 0 < m) : subMod a b m < m := Nat.mod_lt _ hm

/-! ### Sizes -/

@[simp] theorem chainback_length (dec : Vector (BitVec 16) 180) (n dp st : Nat) (acc : List Bool) :
    (chainback dec n dp st acc).length = n + acc.length := by
  induction n generalizing dp st acc with
  | zero => simp [chainback]
  | succ n ih => simp [chainback, ih]; omega

@[simp] theorem convEncodeFrom_length (e1 e2 e3 e4 : Bool) (d : List Bool) :
    (convEncodeFrom e1 e2 e3 e4 d).length = 2 * d.length := by
  induction d generalizing e1 e2 e3 e4 with
  | nil => rfl
  | cons x d ih => simp [convEncodeFrom, ih]; omega

@[simp] theorem HammingCode.encode_length (c : HammingCode) (d : List Bool) :
    (c.encode d).length = d.length + c.eqs.length := by
  simp [HammingCode.encode]

@[simp] theorem flipBit_length (d : List Bool) (i : Nat) : (flipBit d i).length = d.length := by simp [flipBit]

/-- Correction keeps the length (R132). -/
@[simp] theorem HammingCode.correct_length (c : HammingCode) (d : List Bool) : (c.correct d).2.length = d.length := by
  unfold HammingCode.correct
  split
  · rfl
  · split <;> simp

@[simp] theorem natBits_length (n v : Nat) : (natBits n v).length = n := by simp [natBits]

@[simp] theorem bptcInterleave_length (m : List Bool) : (bptcInterleave m).length = 196 := by
  simp [bptcInterleave, bptcLen]

@[simp] theorem bptcDeinterleave_length (m : List Bool) : (bptcDeinterleave m).length = 196 := by
  simp [bptcDeinterleave, bptcLen]

@[simp] theorem bptcPayload_length (m : List Bool) : (bptcPayload m).length = 96 := by simp [bptcPayload, gather]

@[simp] theorem scatter_length (m : List Bool) (idx : List Nat) (d : List Bool) :
    (scatter m idx d).length = m.length := by
  induction idx generalizing m d with
  | nil => simp [scatter]
  | cons a idx ih => cases d <;> simp [scatter, ih]

/-! ### Outcomes of the codecs -/

/-- The three outcomes of a Hamming decode, and what each says of the word (R132). -/
theorem HammingCode.correct_cases (c : HammingCode) (d : List Bool) :
    (c.syn d = 0 ∧ c.correct d = (.clean, d)) ∨
    (∃ i, c.syn d ≠ 0 ∧ i < c.n ∧ c.col i = c.syn d ∧ c.correct d = (.corrected, flipBit d i)) ∨
    (c.syn d ≠ 0 ∧ (∀ i < c.n, c.col i ≠ c.syn d) ∧ c.correct d = (.uncorrectable, d)) := by
  unfold HammingCode.correct
  by_cases h : c.syn d = 0
  · simp [h]
  · rw [if_neg h]
    cases hf : c.errorAt (c.syn d) with
    | none =>
      refine .inr (.inr ⟨h, fun i hi hc => ?_, rfl⟩)
      have := List.find?_eq_none.1 hf i (by simpa using hi)
      simp [hc] at this
    | some i =>
      have h1 := List.find?_some hf
      have h2 := List.mem_of_find?_eq_some hf
      exact .inr (.inl ⟨i, h, by simpa using h2, by simpa using h1, rfl⟩)

/-- The three outcomes of a Golay decode (R164). -/
theorem golayCorrect_cases (c : Nat) :
    (golayMod c = 0 ∧ golayCorrect c = (.clean, 0, c)) ∨
    (∃ e ∈ golayPatterns, golayMod c ≠ 0 ∧ golayMod e = golayMod c ∧
      golayCorrect c = (.corrected, popcount 19 e, c ^^^ e)) ∨
    (golayMod c ≠ 0 ∧ (∀ e ∈ golayPatterns, golayMod e ≠ golayMod c) ∧ golayCorrect c = (.uncorrectable, 0, c)) := by
  unfold golayCorrect
  by_cases h : golayMod c = 0
  · simp [h]
  · rw [if_neg h]
    cases hf : golayErr (golayMod c) with
    | none =>
      refine .inr (.inr ⟨h, fun e he hc => ?_, rfl⟩)
      have := List.find?_eq_none.1 hf e he
      simp [hc] at this
    | some e =>
      have h1 := List.find?_some hf
      exact .inr (.inl ⟨e, List.mem_of_find?_eq_some hf, h, by simpa using h1, rfl⟩)

/-- The status of a BPTC run is CLEAN, CORRECTED or UNCORRECTABLE (R183). -/
theorem bptcStatus_cases (run : BptcRun) :
    bptcStatus run = .clean ∨ bptcStatus run = .corrected ∨ bptcStatus run = .uncorrectable := by
  unfold bptcStatus
  split
  · simp
  · split <;> simp

/-- Every run of the correction loop has between one and `fuel` more passes (R184). -/
theorem bptcLoop_passes (order : PassOrder) (fuel : Nat) (run : BptcRun) :
    run.passes ≤ (bptcLoop order fuel run).passes ∧ (bptcLoop order fuel run).passes ≤ run.passes + fuel ∧
      (fuel ≠ 0 → run.passes + 1 ≤ (bptcLoop order fuel run).passes) := by
  induction fuel generalizing run with
  | zero => simp [bptcLoop]
  | succ fuel ih =>
    unfold bptcLoop
    split
    · rename_i m _
      have := ih ⟨m, run.passes + 1, true⟩
      simp only at this
      omega
    · simp only
      omega

/-! ### Records of the queue -/

/-- Whole records after whole records are whole records (R110). -/
theorem wholeRecords_append {k : Nat} {xs ys : List Byte} (hx : wholeRecords k xs = true)
    (hy : wholeRecords 0 ys = true) : wholeRecords k (xs ++ ys) = true := by
  induction xs generalizing k with
  | nil => cases k <;> simp_all [wholeRecords]
  | cons x xs ih => cases k <;> simp_all [wholeRecords]

/-- A payload's bytes are skipped (R110). -/
theorem wholeRecords_payload (p : List Byte) : wholeRecords p.length p = true := by
  induction p with
  | nil => rfl
  | cons x p ih => simpa [wholeRecords] using ih

/-- What follows a payload is whole records (R110). -/
theorem wholeRecords_drop {k : Nat} {xs : List Byte} (h : wholeRecords k xs = true) :
    wholeRecords 0 (xs.drop k) = true := by
  induction xs generalizing k with
  | nil => cases k <;> simp_all [wholeRecords]
  | cons x xs ih =>
    cases k with
    | zero => simpa using h
    | succ k => exact ih (by simpa [wholeRecords] using h)

/-- A payload's bytes are not counted (R30, R110). -/
theorem countRecords_payload (p rest : List Byte) : countRecords p.length (p ++ rest) = countRecords 0 rest := by
  induction p with
  | nil => rfl
  | cons x p ih => simpa [countRecords] using ih

/-! ### The trellis step -/

/-- A sum of bits at rising places has those bits. -/
theorem testBit_sum (b : Nat → Bool) (n : Nat) :
    (((List.range n).map fun t => (b t).toNat <<< t).foldl (· + ·) 0) < 2 ^ n ∧
      ∀ j < n, (((List.range n).map fun t => (b t).toNat <<< t).foldl (· + ·) 0).testBit j = b j := by
  induction n with
  | zero => simp
  | succ n ih =>
    rw [List.range_succ, List.map_append, List.foldl_append]
    generalize ((List.range n).map fun t => (b t).toNat <<< t).foldl (· + ·) 0 = v at ih
    obtain ⟨hv, hb⟩ := ih
    simp only [List.map_cons, List.map_nil, List.foldl_cons, List.foldl_nil, Nat.shiftLeft_eq]
    rw [Nat.add_comm v, Nat.mul_comm]
    have hlt : (b n).toNat ≤ 1 := by cases b n <;> simp
    refine ⟨?_, fun j hj => ?_⟩
    · have : 2 ^ n * (b n).toNat ≤ 2 ^ n * 1 := Nat.mul_le_mul_left _ hlt
      rw [Nat.pow_succ]
      omega
    · rw [Nat.testBit_two_pow_mul_add _ hv]
      split
      · exact hb j ‹_›
      · have : j = n := by omega
        subst this
        cases b j <;> simp

/-- Bit t of the decision word is the decision of new state t (R205). -/
theorem acsWord_getLsbD (pm : Vector (BitVec 16) 16) (q s0 s1 : Nat) {t : Nat} (h : t < 16) :
    (acsWord pm q s0 s1).getLsbD t = acsDecision pm q s0 s1 t := by
  unfold acsWord
  rw [BitVec.getLsbD_ofNat, (testBit_sum (acsDecision pm q s0 s1) 16).2 t h]
  simp [h]

/-- A metric that fits sixteen bits is stored as it is (R32, R205). -/
@[simp] theorem storeMetric_of_lt (q : Nat) (free : BitVec 16) {m : Nat} (h : m < 65536) :
    (storeMetric q free m).toNat = m := by
  simp only [storeMetric, if_pos h, BitVec.toNat_ofNat]
  omega

/-- A metric that does not fit is stored within R33's bound. -/
theorem storeMetric_of_ge (q : Nat) (free : BitVec 16) {m : Nat} (h : 65536 ≤ m) :
    (storeMetric q free m).toNat ≤ 2 * q * 180 := by
  have h1 : metricLimit q ≤ 2 * q * 180 := Nat.min_le_left _ _
  have h2 : metricLimit q ≤ 65535 := Nat.min_le_right _ _
  have h3 := Nat.mod_lt free.toNat (show metricLimit q + 1 > 0 by omega)
  simp only [storeMetric, if_neg (Nat.not_lt.mpr h), BitVec.toNat_ofNat]
  omega

/-- A stored metric passes R33's bound only where R205's sum does (R33, R205). -/
theorem storeMetric_le (q : Nat) (free : BitVec 16) {m : Nat} (h : m ≤ 2 * q * 180 ∨ 65536 ≤ m) :
    (storeMetric q free m).toNat ≤ 2 * q * 180 := by
  by_cases hm : m < 65536
  · rw [storeMetric_of_lt q free hm]
    omega
  · exact storeMetric_of_ge q free (by omega)

/-- What PM holds of new state t (R205, notes/assumptions/6.md). -/
theorem acsNew_getD (pm : Vector (BitVec 16) 16) (q s0 s1 : Nat) {t : Nat} (h : t < 16) :
    (acsNew pm q s0 s1).getD t 0 = storeMetric q (Config.metricOverflow pm q s0 s1 t) (acsMetric pm q s0 s1 t) := by
  simp [acsNew, Vector.getD, h]

/-- The metric of new state t is R205's wherever it fits sixteen bits (R32). -/
theorem acsNew_toNat (pm : Vector (BitVec 16) 16) (q s0 s1 : Nat) {t : Nat} (h : t < 16)
    (hm : acsMetric pm q s0 s1 t < 65536) : ((acsNew pm q s0 s1).getD t 0).toNat = acsMetric pm q s0 s1 t := by
  rw [acsNew_getD pm q s0 s1 h, storeMetric_of_lt _ _ hm]

/-- R205 alone: with CONV_Q = 2 and all metrics equal, the pair (1, 1) adds 2 to each, so no number of steps bounds the
metrics, and R33 cannot hold past the 180 steps it counts (notes/assumptions/6.md). -/
theorem acsMetric_all_equal (m : BitVec 16) {t : Nat} (h : t < 16) :
    acsMetric (Vector.replicate 16 m) 2 1 1 t = m.toNat + 2 := by
  unfold acsMetric acsDecision acsLow acsHigh branchCost branchMetric absDiff branchG1 branchG2
  interval_cases t <;> simp [Vector.getD]

/-- The metric of a new state is the smaller candidate (R205). -/
theorem acsMetric_eq_min (pm : Vector (BitVec 16) 16) (q s0 s1 t : Nat) :
    acsMetric pm q s0 s1 t = min (acsLow pm q s0 s1 t) (acsHigh pm q s0 s1 t) := by
  unfold acsMetric acsDecision
  split <;> (simp_all; try omega)

end Sys2Proof.Machine
end

