-- ==== Sys2Proof/Laws/Invariant.lean ====
section
/-! SUPPORT. The shared operations keep the invariant of Safety.lean, and what each of them does, said once. -/

namespace Sys2Proof.Machine

/-- A fault code other than `noFault`, recorded, keeps the invariant (R26). -/
theorem inv_recordFault {s : State} (h : s.Inv) {e : ErrCode} (he : e ≠ .noFault) : (recordFault e s).Inv := by
  have hf := h.fault_code
  constructor <;> simp only [recordFault_params, recordFault_ibuf, recordFault_obuf, recordFault_olen,
    recordFault_qdata, recordFault_jbSlots, recordFault_jbH, recordFault_jbSeq0, recordFault_jbElapsed,
    recordFault_jbLast, recordFault_jbLastValid, recordFault_jbRepeats, recordFault_jbArmed, recordFault_convDp,
    recordFault_convStarted, recordFault_pm, recordFault_fault, recordFault_faultCode, recordFault_result, State.qUsed]
  · exact h.params_legal
  · exact h.ibuf_wf
  · exact h.ibuf_inBuffer
  · exact h.obuf_wf
  · exact h.obuf_inBuffer
  · exact h.olen_le
  · exact h.obuf_tail
  · exact h.queue_whole
  · exact h.queue_fits
  · exact h.slots_length
  · exact h.slots_fit
  · exact h.head_le
  · exact h.seq0_lt
  · exact h.elapsed_le
  · exact h.last_fits
  · exact h.last_nonempty
  · exact h.repeats_le
  · exact h.disarmed
  · exact h.dp_le
  · exact h.not_started
  · exact h.metrics_reset
  · cases hs : s.fault <;> simp_all
  · intro _; trivial

/-- A result code that is not FAULTED keeps the invariant (R25). -/
theorem inv_setResult {s : State} (h : s.Inv) {r : ResultCode} (hr : r ≠ .faulted) (a : Byte) :
    (setResult r a s).Inv where
  params_legal := h.params_legal
  ibuf_wf := h.ibuf_wf
  ibuf_inBuffer := h.ibuf_inBuffer
  obuf_wf := h.obuf_wf
  obuf_inBuffer := h.obuf_inBuffer
  olen_le := h.olen_le
  obuf_tail := h.obuf_tail
  queue_whole := h.queue_whole
  queue_fits := h.queue_fits
  slots_length := h.slots_length
  slots_fit := h.slots_fit
  head_le := h.head_le
  seq0_lt := h.seq0_lt
  elapsed_le := h.elapsed_le
  last_fits := h.last_fits
  last_nonempty := h.last_nonempty
  repeats_le := h.repeats_le
  disarmed := h.disarmed
  dp_le := h.dp_le
  not_started := h.not_started
  metrics_reset := h.metrics_reset
  fault_code := h.fault_code
  faulted_result := fun e => absurd e hr

/-- Raising a fault keeps the invariant (R300). -/
theorem inv_raiseFault {s : State} (h : s.Inv) {e : ErrCode} (he : e ≠ .noFault) : (raiseFault e s).Inv := by
  have base := inv_recordFault h he
  constructor
  · simpa using base.params_legal
  · simpa using base.ibuf_wf
  · simpa using base.ibuf_inBuffer
  · simpa using base.obuf_wf
  · simpa using base.obuf_inBuffer
  · simpa using base.olen_le
  · simpa using base.obuf_tail
  · simpa using base.queue_whole
  · simpa [State.qUsed] using base.queue_fits
  · simpa using base.slots_length
  · simpa using base.slots_fit
  · simpa using base.head_le
  · simpa using base.seq0_lt
  · simpa using base.elapsed_le
  · simpa using base.last_fits
  · simpa using base.last_nonempty
  · simpa using base.repeats_le
  · simpa using base.disarmed
  · simpa using base.dp_le
  · simpa using base.not_started
  · simpa using base.metrics_reset
  · have := base.fault_code
    simp only [recordFault_fault, recordFault_faultCode] at this
    simp only [raiseFault_fault, raiseFault_faultCode]
    exact this
  · intro _; simp

/-- A bus fault keeps the invariant (R303). -/
theorem inv_busFault {s : State} (h : s.Inv) : (busFault s).Inv := inv_recordFault h (by decide)

/-- An output of at most 2048 bits keeps the invariant (R29). -/
theorem inv_out {s : State} (h : s.Inv) {d : List Bool} (hd : d.length ≤ 2048) : (out d s).Inv where
  params_legal := h.params_legal
  ibuf_wf := h.ibuf_wf
  ibuf_inBuffer := h.ibuf_inBuffer
  obuf_wf := out_wf d s
  obuf_inBuffer := out_inBuffer d s
  olen_le := hd
  obuf_tail := fun i hi => by rw [out_bit, List.getD_eq_default _ _ hi, Bool.and_false]
  queue_whole := h.queue_whole
  queue_fits := h.queue_fits
  slots_length := h.slots_length
  slots_fit := h.slots_fit
  head_le := h.head_le
  seq0_lt := h.seq0_lt
  elapsed_le := h.elapsed_le
  last_fits := h.last_fits
  last_nonempty := h.last_nonempty
  repeats_le := h.repeats_le
  disarmed := h.disarmed
  dp_le := h.dp_le
  not_started := h.not_started
  metrics_reset := h.metrics_reset
  fault_code := h.fault_code
  faulted_result := h.faulted_result

/-- An output of at most 255 bytes keeps the invariant. -/
theorem inv_outBytes {s : State} (h : s.Inv) {bs : List Byte} (hb : bs.length ≤ 255) : (outBytes bs s).Inv :=
  inv_out h (by rw [bytesBits_length]; omega)

/-- Emptying the queue keeps the invariant (R113). -/
theorem inv_clearQueue {s : State} (h : s.Inv) : (clearQueue s).Inv where
  params_legal := h.params_legal
  ibuf_wf := h.ibuf_wf
  ibuf_inBuffer := h.ibuf_inBuffer
  obuf_wf := h.obuf_wf
  obuf_inBuffer := h.obuf_inBuffer
  olen_le := h.olen_le
  obuf_tail := h.obuf_tail
  queue_whole := rfl
  queue_fits := Nat.zero_le _
  slots_length := h.slots_length
  slots_fit := h.slots_fit
  head_le := h.head_le
  seq0_lt := h.seq0_lt
  elapsed_le := h.elapsed_le
  last_fits := h.last_fits
  last_nonempty := h.last_nonempty
  repeats_le := h.repeats_le
  disarmed := h.disarmed
  dp_le := h.dp_le
  not_started := h.not_started
  metrics_reset := h.metrics_reset
  fault_code := h.fault_code
  faulted_result := h.faulted_result

/-- A legal parameter set has a positive modulus and a positive number of slots (R8). -/
theorem legal_bounds {p : Params} (h : p.legal = true) :
    1 ≤ p.jbSlots ∧ p.jbSlots ≤ p.jbSeqMod ∧ p.jbSeqMod ≤ 65535 ∧ p.jbBlockBytes ≤ 255 ∧ 1 ≤ p.jbBlockMs ∧
      1 ≤ p.convQ ∧ p.convQ ≤ 127 ∧ p.qCap ≤ 65535 ∧ p.jbRepeatLimit ≤ 255 := by
  simp only [Params.legal, Bool.and_eq_true, decide_eq_true_eq] at h
  omega

/-- Resetting the jitter buffer keeps the invariant (R232). -/
theorem inv_clearJitter {s : State} (h : s.Inv) : (clearJitter s).Inv where
  params_legal := h.params_legal
  ibuf_wf := h.ibuf_wf
  ibuf_inBuffer := h.ibuf_inBuffer
  obuf_wf := h.obuf_wf
  obuf_inBuffer := h.obuf_inBuffer
  olen_le := h.olen_le
  obuf_tail := h.obuf_tail
  queue_whole := h.queue_whole
  queue_fits := h.queue_fits
  slots_length := by simp
  slots_fit := fun f hf => by simp_all [List.mem_replicate]
  head_le := Nat.zero_le _
  seq0_lt := by
    have := legal_bounds h.params_legal
    show 0 < s.params.jbSeqMod
    omega
  elapsed_le := Nat.zero_le _
  last_fits := Nat.zero_le _
  last_nonempty := fun e => by simp at e
  repeats_le := Nat.zero_le _
  disarmed := fun _ => ⟨rfl, rfl, rfl, rfl, fun f hf => by simp_all [List.mem_replicate]⟩
  dp_le := h.dp_le
  not_started := h.not_started
  metrics_reset := h.metrics_reset
  fault_code := h.fault_code
  faulted_result := h.faulted_result

/-- Resetting the decoder keeps the invariant (R101). -/
theorem inv_clearDecoder {s : State} (h : s.Inv) : (clearDecoder s).Inv where
  params_legal := h.params_legal
  ibuf_wf := h.ibuf_wf
  ibuf_inBuffer := h.ibuf_inBuffer
  obuf_wf := h.obuf_wf
  obuf_inBuffer := h.obuf_inBuffer
  olen_le := h.olen_le
  obuf_tail := h.obuf_tail
  queue_whole := h.queue_whole
  queue_fits := h.queue_fits
  slots_length := h.slots_length
  slots_fit := h.slots_fit
  head_le := h.head_le
  seq0_lt := h.seq0_lt
  elapsed_le := h.elapsed_le
  last_fits := h.last_fits
  last_nonempty := h.last_nonempty
  repeats_le := h.repeats_le
  disarmed := h.disarmed
  dp_le := Nat.zero_le _
  not_started := fun _ => rfl
  metrics_reset := fun _ i hi => by simp [clearDecoder, Vector.getD, hi]
  fault_code := h.fault_code
  faulted_result := h.faulted_result

/-- A trellis step with room for its decision keeps the invariant (R204). -/
theorem inv_convStepState {s : State} (h : s.Inv) (hs : s.convStarted = true) (hd : s.convDp < 180) (s0 s1 : Nat) :
    (convStepState s0 s1 s).Inv where
  params_legal := h.params_legal
  ibuf_wf := h.ibuf_wf
  ibuf_inBuffer := h.ibuf_inBuffer
  obuf_wf := h.obuf_wf
  obuf_inBuffer := h.obuf_inBuffer
  olen_le := h.olen_le
  obuf_tail := h.obuf_tail
  queue_whole := h.queue_whole
  queue_fits := h.queue_fits
  slots_length := h.slots_length
  slots_fit := h.slots_fit
  head_le := h.head_le
  seq0_lt := h.seq0_lt
  elapsed_le := h.elapsed_le
  last_fits := h.last_fits
  last_nonempty := h.last_nonempty
  repeats_le := h.repeats_le
  disarmed := h.disarmed
  dp_le := hd
  not_started := fun e => absurd (hs.symm.trans e) (by decide)
  metrics_reset := fun e => absurd (hs.symm.trans e) (by decide)
  fault_code := h.fault_code
  faulted_result := h.faulted_result

/-- Starting the decoder keeps the invariant (R203). -/
theorem inv_started {s : State} (h : s.Inv) :
    ({ s with pm := Vector.replicate 16 0, convDp := 0, convStarted := true } : State).Inv where
  params_legal := h.params_legal
  ibuf_wf := h.ibuf_wf
  ibuf_inBuffer := h.ibuf_inBuffer
  obuf_wf := h.obuf_wf
  obuf_inBuffer := h.obuf_inBuffer
  olen_le := h.olen_le
  obuf_tail := h.obuf_tail
  queue_whole := h.queue_whole
  queue_fits := h.queue_fits
  slots_length := h.slots_length
  slots_fit := h.slots_fit
  head_le := h.head_le
  seq0_lt := h.seq0_lt
  elapsed_le := h.elapsed_le
  last_fits := h.last_fits
  last_nonempty := h.last_nonempty
  repeats_le := h.repeats_le
  disarmed := h.disarmed
  dp_le := Nat.zero_le _
  not_started := fun _ => rfl
  metrics_reset := fun _ i hi => by simp [Vector.getD, hi]
  fault_code := h.fault_code
  faulted_result := h.faulted_result

/-- `out` leaves an output of `d.length` bits, the first 2048 of them in OBUF (R11). -/
theorem out_outputIs (d : List Bool) (s : State) :
    OutputIs (out d s) d.length fun i => d.getD i false := by
  refine ⟨rfl, fun i => ?_⟩
  rw [out_bit]
  by_cases h : i < d.length
  · simp [h]
  · have hn : d.length ≤ i := by omega
    rw [List.getD_eq_default _ _ hn]
    simp [h]

/-- Everything that raising a fault does (R300). -/
theorem raiseFault_faultsWith (e : ErrCode) (s : State) : FaultsWith e s (raiseFault e s) := by
  simp [FaultsWith, Reports, SameHost, SameInput, SameOutput, SameUnits, SameQueue, SameJitter, SameDecoder]

/-- Everything that a result with an output does: the output, RESULT and AUX (R11, R145). -/
theorem setResult_out_codecFrame (r : ResultCode) (a : Byte) (d : List Bool) (s : State) :
    CodecFrame s (setResult r a (out d s)) := by
  simp [CodecFrame, SameHost, SameInput, SameFaults, SameUnits, SameQueue, SameJitter, SameDecoder]

end Sys2Proof.Machine
end

