-- ==== Sys2Proof/Laws/PerInstr.lean ====
section
/-! SUPPORT. Facts about every command as syntax, one lemma per constructor: the three fields of its word
(30_encoding.md R70, R71, R73). -/

namespace Sys2Proof.Laws.EncodeFields

/-- OP of a command (R73). -/
def opcode : Instr → BitVec 8
  | .nop => 0x00
  | .clrAll => 0x01
  | .qPush _ => 0x10
  | .qPop => 0x11
  | .qClear => 0x12
  | .h15113aEnc => 0x20
  | .h15113aDec => 0x21
  | .h15113bEnc => 0x22
  | .h15113bDec => 0x23
  | .h1393Enc => 0x24
  | .h1393Dec => 0x25
  | .h17123Enc => 0x26
  | .h17123Dec => 0x27
  | .golayEnc => 0x28
  | .golayDec => 0x29
  | .bptcEnc => 0x30
  | .bptcDec => 0x31
  | .convEnc _ => 0x40
  | .convStart => 0x41
  | .convStep _ _ => 0x42
  | .convChainback _ => 0x43
  | .jbReset => 0x50
  | .jbAdd _ _ => 0x51
  | .jbGet => 0x52
  | .jbClock _ => 0x53

/-- LEN8 of a command: its length operand, or 0 (R71). -/
def len8 : Instr → BitVec 8
  | .nop => 0
  | .clrAll => 0
  | .qPush len => len
  | .qPop => 0
  | .qClear => 0
  | .h15113aEnc => 0
  | .h15113aDec => 0
  | .h15113bEnc => 0
  | .h15113bDec => 0
  | .h1393Enc => 0
  | .h1393Dec => 0
  | .h17123Enc => 0
  | .h17123Dec => 0
  | .golayEnc => 0
  | .golayDec => 0
  | .bptcEnc => 0
  | .bptcDec => 0
  | .convEnc _ => 0
  | .convStart => 0
  | .convStep _ _ => 0
  | .convChainback _ => 0
  | .jbReset => 0
  | .jbAdd len _ => len
  | .jbGet => 0
  | .jbClock _ => 0

/-- IMM16 of a command: its number, its symbol pair, its sequence number, or 0 (R71). -/
def imm16 : Instr → BitVec 16
  | .nop => 0
  | .clrAll => 0
  | .qPush _ => 0
  | .qPop => 0
  | .qClear => 0
  | .h15113aEnc => 0
  | .h15113aDec => 0
  | .h15113bEnc => 0
  | .h15113bDec => 0
  | .h1393Enc => 0
  | .h1393Dec => 0
  | .h17123Enc => 0
  | .h17123Dec => 0
  | .golayEnc => 0
  | .golayDec => 0
  | .bptcEnc => 0
  | .bptcDec => 0
  | .convEnc n => n
  | .convStart => 0
  | .convStep s0 s1 => s1 ++ s0
  | .convChainback n => n
  | .jbReset => 0
  | .jbAdd _ seq => seq
  | .jbGet => 0
  | .jbClock ms => ms

/-- The word of a command has the command's OP, LEN8 and IMM16. -/
def Statement (i : Instr) : Prop :=
  cwOp (encode i) = opcode i ∧ cwLen8 (encode i) = len8 i ∧ cwImm16 (encode i) = imm16 i

/-- The fields of a word put together from an immediate, a length and an opcode (R70). -/
theorem fields_append (imm : BitVec 16) (len op : BitVec 8) :
    cwOp (imm ++ len ++ op) = op ∧ cwLen8 (imm ++ len ++ op) = len ∧ cwImm16 (imm ++ len ++ op) = imm := by
  refine ⟨?_, ?_, ?_⟩ <;> refine BitVec.eq_of_getLsbD_eq fun i hi => ?_ <;>
    simp only [cwOp, cwLen8, cwImm16, BitVec.getLsbD_extractLsb', BitVec.getLsbD_append]
  · simp [hi]
  · simp [hi, show ¬ (8 + i < 8) by omega]
  · simp [hi, show ¬ (16 + i < 8) by omega, show ¬ (16 + i - 8 < 8) by omega, show 16 + i - 8 - 8 = i by omega]

/-- The fields of an F0 word. -/
theorem fields_F0 (op : BitVec 8) :
    cwOp (encodeF0 op) = op ∧ cwLen8 (encodeF0 op) = 0 ∧ cwImm16 (encodeF0 op) = 0 := by
  rw [show encodeF0 op = (0#16 ++ 0#8 ++ op : BitVec 32) from rfl]
  exact fields_append 0 0 op

/-- The fields of an FS word. -/
theorem fields_FS (op s0 s1 : BitVec 8) :
    cwOp (encodeFS op s0 s1) = op ∧ cwLen8 (encodeFS op s0 s1) = 0 ∧ cwImm16 (encodeFS op s0 s1) = s1 ++ s0 :=
  fields_append (s1 ++ s0) 0 op

theorem nop : Statement .nop := fields_F0 _
theorem clrAll : Statement .clrAll := fields_F0 _
theorem qPush (len : BitVec 8) : Statement (.qPush len) := fields_append _ _ _
theorem qPop : Statement .qPop := fields_F0 _
theorem qClear : Statement .qClear := fields_F0 _
theorem h15113aEnc : Statement .h15113aEnc := fields_F0 _
theorem h15113aDec : Statement .h15113aDec := fields_F0 _
theorem h15113bEnc : Statement .h15113bEnc := fields_F0 _
theorem h15113bDec : Statement .h15113bDec := fields_F0 _
theorem h1393Enc : Statement .h1393Enc := fields_F0 _
theorem h1393Dec : Statement .h1393Dec := fields_F0 _
theorem h17123Enc : Statement .h17123Enc := fields_F0 _
theorem h17123Dec : Statement .h17123Dec := fields_F0 _
theorem golayEnc : Statement .golayEnc := fields_F0 _
theorem golayDec : Statement .golayDec := fields_F0 _
theorem bptcEnc : Statement .bptcEnc := fields_F0 _
theorem bptcDec : Statement .bptcDec := fields_F0 _
theorem convEnc (n : BitVec 16) : Statement (.convEnc n) := fields_append _ _ _
theorem convStart : Statement .convStart := fields_F0 _
theorem convStep (s0 : BitVec 8) (s1 : BitVec 8) : Statement (.convStep s0 s1) := fields_FS _ _ _
theorem convChainback (n : BitVec 16) : Statement (.convChainback n) := fields_append _ _ _
theorem jbReset : Statement .jbReset := fields_F0 _
theorem jbAdd (len : BitVec 8) (seq : BitVec 16) : Statement (.jbAdd len seq) := fields_append _ _ _
theorem jbGet : Statement .jbGet := fields_F0 _
theorem jbClock (ms : BitVec 16) : Statement (.jbClock ms) := fields_append _ _ _

end Sys2Proof.Laws.EncodeFields
end

