-- ==== Sys2Proof/Tests/Slice0.lean ====
section
/-! SUPPORT. Tests: ill-formed terms that WellFormed refuses, command words written out from the spec's encodings, one
step of each command on the spec's test vectors (95_test_vectors.md), and for each statement with hypotheses a
concrete state and operands that meet them (`witness_...`). -/

namespace Sys2Proof.Tests

open Sys2Proof.Machine Sys2Proof.Claims

set_option Elab.async false

/-! ### Helpers -/

/-- The state of a next outcome. -/
def after : Host.Outcome State Fault Refusal → State
  | .next t => t
  | _ => State.reset

/-- The reset state with these bytes in IBUF from byte 0 on. -/
def input (bs : List Byte) : State := { State.reset with ibuf := Memory.ofBytesAt 0 bs }

/-- The state after one step that takes a host write of the command word `w`. -/
def runWord (w : Nat) (s : State) : State := after (step (s.withFetchWord 32 w))

/-- The reset state with this next host event. -/
def facing (e : HostEvent) : State := { State.reset with inbox := [e] }

/-- The first `n` bytes of OBUF, OLEN, RESULT and AUX. -/
def shown (n : Nat) (t : State) : List Byte × Nat × ResultCode × Byte := (t.obuf.bytes n, t.olen, t.result, t.aux)

/-- The output of `t` as input again, with the bits at `errs` flipped. -/
def receive (t : State) (errs : List Nat) : State :=
  input (packBits 25 ((List.range 196).map fun j => t.obuf.bit j ^^ decide (j ∈ errs)))

/-- A jitter buffer that accepted sequence number 10 first: JB_H, JB_ELAPSED and the slots given. -/
def jitter (h elapsed : Nat) (slots : List (List Byte)) : State :=
  { State.reset with jbArmed := true, jbSeq0 := 10, jbH := h, jbElapsed := elapsed, jbSlots := slots }

/-- The jitter buffer after JB_DATA A0 in row 10 of vector 5.1, `ms` later. -/
def delivered (ms : Nat) (slots : List (List Byte)) : State :=
  { jitter 1 (60 + ms) slots with jbLast := [0xA0], jbLastValid := true }

/-- A started decoder with `dp` stored decisions. -/
def decoder (dp : Nat) : State := { State.reset with convStarted := true, convDp := dp }

/-! ### WellFormed refuses ill-formed terms -/

theorem test_wellFormed_qPush_zero : Instr.wellFormed Params.vectorDefaults (.qPush 0) = false := by decide
theorem test_wellFormed_convEnc_zero : Instr.wellFormed Params.vectorDefaults (.convEnc 0) = false := by decide
theorem test_wellFormed_convEnc_1025 : Instr.wellFormed Params.vectorDefaults (.convEnc 1025) = false := by decide
theorem test_wellFormed_convStep_s0 : Instr.wellFormed Params.vectorDefaults (.convStep 2 0) = false := by decide
theorem test_wellFormed_convStep_s1 : Instr.wellFormed Params.vectorDefaults (.convStep 0 2) = false := by decide
theorem test_wellFormed_convChainback_zero : Instr.wellFormed Params.vectorDefaults (.convChainback 0) = false := by decide
theorem test_wellFormed_jbAdd_len_zero : Instr.wellFormed Params.vectorDefaults (.jbAdd 0 5) = false := by decide
theorem test_wellFormed_jbAdd_len_9 : Instr.wellFormed Params.vectorDefaults (.jbAdd 9 5) = false := by decide
theorem test_wellFormed_jbAdd_seq_256 : Instr.wellFormed Params.vectorDefaults (.jbAdd 1 256) = false := by decide
theorem test_wellFormed_boundaries :
    [Instr.qPush 255, .convEnc 1024, .convStep 1 1, .convChainback 65535, .jbAdd 8 255].all
      (Instr.wellFormed Params.vectorDefaults) = true := by decide
/-- R8: JB_SEQ_MOD below JB_SLOTS. -/
theorem test_illegal_parameters :
    State.resetWith { Params.vectorDefaults with jbSeqMod := 3 } = .refused .illegalParameters := rfl

/-! ### Decoding, each word written out bit by bit from R71 and R73 -/

theorem test_decode_nop : decode 0b00000000000000000000000000000000 = .ok (.nop) := by decide
theorem test_decode_clrAll : decode 0b00000000000000000000000000000001 = .ok (.clrAll) := by decide
theorem test_decode_qPop : decode 0b00000000000000000000000000010001 = .ok (.qPop) := by decide
theorem test_decode_qClear : decode 0b00000000000000000000000000010010 = .ok (.qClear) := by decide
theorem test_decode_h15113aEnc : decode 0b00000000000000000000000000100000 = .ok (.h15113aEnc) := by decide
theorem test_decode_h15113aDec : decode 0b00000000000000000000000000100001 = .ok (.h15113aDec) := by decide
theorem test_decode_h15113bEnc : decode 0b00000000000000000000000000100010 = .ok (.h15113bEnc) := by decide
theorem test_decode_h15113bDec : decode 0b00000000000000000000000000100011 = .ok (.h15113bDec) := by decide
theorem test_decode_h1393Enc : decode 0b00000000000000000000000000100100 = .ok (.h1393Enc) := by decide
theorem test_decode_h1393Dec : decode 0b00000000000000000000000000100101 = .ok (.h1393Dec) := by decide
theorem test_decode_h17123Enc : decode 0b00000000000000000000000000100110 = .ok (.h17123Enc) := by decide
theorem test_decode_h17123Dec : decode 0b00000000000000000000000000100111 = .ok (.h17123Dec) := by decide
theorem test_decode_golayEnc : decode 0b00000000000000000000000000101000 = .ok (.golayEnc) := by decide
theorem test_decode_golayDec : decode 0b00000000000000000000000000101001 = .ok (.golayDec) := by decide
theorem test_decode_bptcEnc : decode 0b00000000000000000000000000110000 = .ok (.bptcEnc) := by decide
theorem test_decode_bptcDec : decode 0b00000000000000000000000000110001 = .ok (.bptcDec) := by decide
theorem test_decode_convStart : decode 0b00000000000000000000000001000001 = .ok (.convStart) := by decide
theorem test_decode_jbReset : decode 0b00000000000000000000000001010000 = .ok (.jbReset) := by decide
theorem test_decode_jbGet : decode 0b00000000000000000000000001010010 = .ok (.jbGet) := by decide
theorem test_decode_qPush : decode 0b00000000000000001000001100010000 = .ok (.qPush 0x83) := by decide
theorem test_decode_convEnc : decode 0b00000010000000110000000001000000 = .ok (.convEnc 0x0203) := by decide
theorem test_decode_convStep : decode 0b00000010000000110000000001000010 = .ok (.convStep 3 2) := by decide
theorem test_decode_convChainback : decode 0b10000000000011000000000001000011 = .ok (.convChainback 0x800C) := by decide
theorem test_decode_jbAdd : decode 0b01000000000010101000000101010001 = .ok (.jbAdd 0x81 0x400A) := by decide
theorem test_decode_jbClock : decode 0b10000000001010000000000001010011 = .ok (.jbClock 0x8028) := by decide

/-- R74: the opcode is checked before the reserved fields. -/
theorem test_decode_order : decode 0xFFFF0002 = .error .illegalOp := by decide
/-- R76: LEN8 of an F0 word, IMM16 of an FL word, LEN8 of an FN and of an FS word. -/
theorem test_decode_reserved : [0x00000121, 0x00010110, 0x00080140, 0x01010142].all
    (fun w : Word => decide (decode w = .error .reservedField)) = true := by decide
theorem test_decodeTableWord : decodeTableWord 32 0x02030042 = some (.convStep 3 2) := by decide

/-! ### One step of each command (95_test_vectors.md) -/

/-- Vector 2.1. -/
theorem test_nop :
    let t := runWord 0x00000000 (input [7])
    regResult t = 0 ∧ t.ibuf = [(0, 7)] ∧ t.obuf = [] := by decide +kernel
/-- Vector 2.18: CLR_ALL keeps FAULT. -/
theorem test_clrAll :
    let t := runWord 0x01 { (delivered 0 [[1], [], [], []]) with fault := true, faultCode := .illegalOp, qdata := [1, 2] }
    regResult t = 0x00010100 ∧ regJbstat t = 0 ∧ regQstat t = 0 := by decide +kernel
/-- Vector 2.2. -/
theorem test_nop_reserved :
    let t := runWord 0x00000100 State.reset
    regResult t = 0x000201FF ∧ t.cmdLast = 0x00000100 := by decide +kernel
/-- Vector 3.1. -/
theorem test_qPush :
    let t := runWord 0x00000310 (input [0xA1, 0xA2, 0xA3])
    t.qdata = [0x03, 0xA1, 0xA2, 0xA3] ∧ regQstat t = 0x00010004 := by decide +kernel
/-- Vector 3.5. -/
theorem test_qPush_full :
    let t := runWord 0x00001010 State.reset
    t.result = .qFull ∧ t.qdata = [] := by decide +kernel
/-- Vector 3.8. -/
theorem test_qPop :
    let t := runWord 0x11 { State.reset with qdata := [3, 0xA1, 0xA2, 0xA3, 1, 9] }
    shown 3 t = ([0xA1, 0xA2, 0xA3], 24, .ok, 0) ∧ t.qdata = [1, 9] := by decide +kernel
/-- Vector 3.7. -/
theorem test_qPop_empty :
    shown 1 (runWord 0x11 State.reset) = ([0], 0, .qEmpty, 0) := by decide +kernel
/-- Vector 3.10. -/
theorem test_qClear :
    let t := runWord 0x12 { State.reset with qdata := [1, 9], olen := 3 }
    t.qdata = [] ∧ t.olen = 3 := by decide +kernel
/-- Vector 4.1.1c. -/
theorem test_h15113aEnc :
    shown 2 (runWord 0x20 (input [0xB3, 0xA0])) = ([0xB3, 0xAA], 15, .ok, 0x00) := by decide +kernel
/-- Vector 4.1.2b. -/
theorem test_h15113aDec :
    shown 2 (runWord 0x21 (input [0xB3, 0x8A])) = ([0xB3, 0xAA], 15, .corrected, 0x0C) := by decide +kernel
/-- Vector 4.1.1e. -/
theorem test_h15113bEnc :
    shown 2 (runWord 0x22 (input [0xB3, 0xA0])) = ([0xB3, 0xB2], 15, .ok, 0x00) := by decide +kernel
/-- Vector 4.1.3b. -/
theorem test_h15113bDec :
    shown 2 (runWord 0x23 (input [0x73, 0xB2])) = ([0x73, 0xBA], 15, .corrected, 0x02) := by decide +kernel
/-- Vector 4.1.1g. -/
theorem test_h1393Enc :
    shown 2 (runWord 0x24 (input [0xB3, 0x80])) = ([0xB3, 0xD8], 13, .ok, 0x00) := by decide +kernel
/-- Vector 4.1.2i. -/
theorem test_h1393Dec :
    shown 2 (runWord 0x25 (input [0xB3, 0x58])) = ([0xB3, 0xD8], 13, .corrected, 0x0C) := by decide +kernel
/-- Vector 4.1.3c. -/
theorem test_h1393Dec_uncorrectable :
    shown 2 (runWord 0x25 (input [0x32, 0xD8])) = ([0x32, 0xD8], 13, .uncorrectable, 0x09) := by decide +kernel
/-- Vector 4.1.1i. -/
theorem test_h17123Enc :
    shown 3 (runWord 0x26 (input [0xAB, 0xC0])) = ([0xAB, 0xCD, 0x00], 17, .ok, 0x00) := by decide +kernel
/-- Vector 4.1.2k. -/
theorem test_h17123Dec :
    shown 3 (runWord 0x27 (input [0x2B, 0xCD, 0x00])) = ([0xAB, 0xCD, 0x00], 17, .corrected, 0x1B) := by decide +kernel
/-- Vector 4.2, the row of A5. -/
theorem test_golayEnc :
    shown 3 (runWord 0x28 (input [0xA5])) = ([0xA5, 0x76, 0xB0], 20, .ok, 0x00) := by decide +kernel
/-- Vector 4.2.3b. -/
theorem test_golayDec :
    shown 1 (runWord 0x29 (input [0x25, 0x36, 0x90])) = ([0xA5], 8, .corrected, 0x03) := by decide +kernel
/-- Vector 4.2.4a. -/
theorem test_golayDec_uncorrectable :
    shown 1 (runWord 0x29 (input [0xDD, 0x76, 0xB0])) = ([0xDD], 8, .uncorrectable, 0x00) := by decide +kernel
/-- Vector 4.3.0a. -/
theorem test_bptcEnc :
    shown 25 (runWord 0x30 (input [0x12, 0x34, 0x56, 0x78, 0x9A, 0xBC, 0xDE, 0xF0, 0x0F, 0x1E, 0x2D, 0x3C])) =
      ([0x1E, 0x04, 0x7C, 0xC6, 0x5A, 0x8E, 0x33, 0xB0, 0xB3, 0x76, 0xD3, 0x55, 0xA6] ++
        [0x53, 0x79, 0x35, 0xC0, 0x3E, 0xEC, 0x2D, 0x69, 0xA8, 0xA3, 0x82, 0x40], 196, .ok, 0) := by decide +kernel
/-- Program P2, line 11: raw bit 136 flipped. -/
theorem test_bptcDec :
    shown 12 (runWord 0x31 (input ([0x1E, 0x04, 0x7C, 0xC6, 0x5A, 0x8E, 0x33, 0xB0, 0xB3, 0x76, 0xD3, 0x55, 0xA6] ++
      [0x53, 0x79, 0x35, 0xC0, 0xBE, 0xEC, 0x2D, 0x69, 0xA8, 0xA3, 0x82, 0x40]))) =
      ([0x12, 0x34, 0x56, 0x78, 0x9A, 0xBC, 0xDE, 0xF0, 0x0F, 0x1E, 0x2D, 0x3C], 96, .corrected, 2) := by decide +kernel
/-- Vector 4.4.1c. -/
theorem test_convEnc :
    shown 2 (runWord 0x80040 (input [0xB0])) = ([0xD8, 0xF7], 16, .ok, 0x00) := by decide +kernel
/-- Vector 4.4.1g. -/
theorem test_convEnc_1025 :
    regResult (runWord 0x04010040 State.reset) = 0x000301FF := by decide +kernel
/-- R203. -/
theorem test_convStart :
    let t := runWord 0x41 { State.reset with convDp := 9, pm := Vector.replicate 16 3 }
    regConvstat t = 1 ∧ t.pm = Vector.replicate 16 0 := by decide +kernel
/-- Vector 4.4.2c. -/
theorem test_convStep :
    let t := runWord 0x01000042 (decoder 0)
    t.dec[0] = 0x7DEB ∧ t.pm = #v[1, 1, 0, 0, 0, 0, 1, 1, 0, 0, 1, 1, 1, 1, 0, 0] := by decide +kernel
/-- Vector 4.4.8a. -/
theorem test_convStep_before_start :
    regResult (runWord 0x42 State.reset) = 0x000401FF := by decide +kernel
/-- Vector 4.4.3. -/
theorem test_convChainback :
    let d : Vector (BitVec 16) 180 := [0xEB7D, 0x4DE8, 0xB2D7, 0xD4BE, 0xEBF1, 0xEF71, 0x4FEB, 0xE84F].zipIdx.foldl
      (fun v p => v.set! p.2 p.1) (Vector.replicate 180 0)
    let t := runWord 0x00040043 { (decoder 8) with dec := d }
    shown 1 t = ([0xB0], 4, .ok, 0) ∧ regConvstat t = 0x00000401 := by decide +kernel
/-- Vector 4.4.8e. -/
theorem test_convChainback_range :
    regResult (runWord 0x00050043 (decoder 4)) = 0x000601FF := by decide +kernel
/-- Vector 5.2.10. -/
theorem test_jbReset :
    let t := runWord 0x50 (delivered 0 [[], [], [0xC0], []])
    regJbstat t = 0 ∧ regJbtime t = 0 ∧ regJbhead t = 0 := by decide +kernel
/-- Vector 5.1, row 1. -/
theorem test_jbAdd :
    let t := runWord 0x000A0151 (input [0xA0])
    t.jbSlots = [[0xA0], [], [], []] ∧ regJbstat t = 0x000A0001 := by decide +kernel
/-- Vector 5.1, row 5. -/
theorem test_jbAdd_behind :
    (runWord 0x00090151 (jitter 0 0 [[0xA0], [], [0xC0], []])).result = .jbOutOfWindow := by decide +kernel
/-- Vector 5.1, row 10. -/
theorem test_jbGet :
    let t := runWord 0x52 (jitter 0 60 [[0xA0], [], [0xC0], []])
    shown 1 t = ([0xA0], 8, .jbData, 0) ∧ regJbstat t = 0x000B0007 := by decide +kernel
/-- Vector 5.1, row 13. -/
theorem test_jbGet_repeat :
    let t := runWord 0x52 (delivered 20 [[], [], [0xC0], []])
    shown 1 t = ([0xA0], 8, .jbRepeat, 0) ∧ regJbstat t = 0x000C0107 := by decide +kernel
/-- Vector 5.1, row 9. -/
theorem test_jbClock :
    let t := runWord 0x00140053 (jitter 0 40 [[0xA0], [], [0xC0], []])
    regJbtime t = 60 ∧ regJbstat t = 0x000A0003 := by decide +kernel
/-- Vector 5.2.11. -/
theorem test_jbClock_saturates :
    (runWord 0xFFFF0053 (jitter 0 4294967294 [[], [], [], []])).jbElapsed = 4294967295 := by decide +kernel
/-- Vector 2.10. -/
theorem test_bus_misaligned :
    let t := after (step (facing (.read 2 32)))
    t.replies = [0] ∧ regResult t = 0x00070100 := by decide +kernel
/-- Vector 2.11. -/
theorem test_bus_obuf_write :
    let t := after (step (facing (.write 0x200 8 0x55)))
    t.obuf = [] ∧ regResult t = 0x00070100 := by decide +kernel
/-- Vector 2.14. -/
theorem test_ibuf_write :
    (after (step (facing (.write 0x1FF 8 0x5A)))).ibuf = [(255, 0x5A)] := by decide +kernel
/-- Vectors 2.15 and 2.16. -/
theorem test_cfg :
    regCfg0 State.reset = 0x08040010 ∧ regCfg3 State.reset = 5 := by decide +kernel
/-- R205 after a chainback: the sum 722 past R33's bound 720 for CONV_Q = 2. -/
theorem test_metric_past_bound :
    let t := runWord 0x01010042 { State.reset with params := { Params.vectorDefaults with convQ := 2 },
                                                   convStarted := true, convDp := 4, pm := Vector.replicate 16 720 }
    t.pm.getD 0 0 = 722 ∧ t.freeDraws = 0 := by decide +kernel
/-- R32 and notes/assumptions/6.md: a sum that does not fit 16 bits is a free value, and the step completes. -/
theorem test_metric_free :
    let t := runWord 0x40400042 { State.reset with params := { Params.vectorDefaults with convQ := 127 },
                                                   convStarted := true, convDp := 4, pm := Vector.replicate 16 65535 }
    t.freeDraws = 1 ∧ t.result = .ok ∧ t.convDp = 5 := by decide +kernel
/-- R78: FRAME_PUSH 1, 2, for a block at 0x1000. -/
theorem test_framePush :
    assemble 0x1000 (.framePush [1, 2]) =
      some [.write 0x1100 8 1, .write 0x1101 8 2, .write 0x1000 32 0x00000210] := by decide +kernel
/-- R77: an operand that does not fit its field. -/
theorem test_assembler_refuses :
    [Line.qPush 256, .convEnc 65536, .jbAdd 1 65536, .ib 0 [256], .bare (.qPush 1)].all
      (fun l => decide (assemble 0 l = none)) = true := by decide +kernel

/-! ### Witnesses: a concrete state and operands for the hypotheses of each statement -/

theorem witness_ResetState : Params.vectorDefaults.legal = true := by decide
theorem witness_ParametersLegalOrRefused :
    { Params.vectorDefaults with jbSlots := 255, jbSeqMod := 255 }.legal = true ∧
    { Params.vectorDefaults with jbSlots := 255, jbSeqMod := 254 }.legal = false := by decide
theorem witness_HardwareResetEvent : NextEvent (facing .reset) .reset := rfl
theorem witness_StepRunsDecodedCommand :
    decode 0x00000310 = .ok (.qPush 3) ∧
    NextEvent (facing (.write 0 32 0x310)) (.write (facing (.write 0 32 0x310)).params.blockBase 32 0x310) :=
  ⟨by decide, rfl⟩
theorem witness_BadWordFaultsOnly :
    decode 0x00000100 = .error .reservedField ∧ decode 0x000000FF = .error .illegalOp ∧
    NextEvent (facing (.write 0 32 0x100)) (.write (facing (.write 0 32 0x100)).params.blockBase 32 0x100) ∧
    NextEvent (facing (.write 0 32 0xFF)) (.write (facing (.write 0 32 0xFF)).params.blockBase 32 0xFF) :=
  ⟨by decide, by decide, rfl, rfl⟩

/-- A block at system address 0x1000 with this next host event. -/
def mapped (e : HostEvent) : State :=
  { State.reset with params := { Params.vectorDefaults with blockBase := 0x1000 }, inbox := [e] }

theorem witness_IdleAndForeignAccesses :
    State.reset.inbox = [] ∧ 0xFFF < (mapped .reset).params.blockBase ∧
    (mapped .reset).params.blockBase + 4096 ≤ 0x2000 ∧
    NextEvent (mapped (.read 0xFFF 32)) (.read 0xFFF 32) ∧
    NextEvent (mapped (.write 0x2000 32 0)) (.write 0x2000 32 0) := by
  refine ⟨rfl, by decide, by decide, rfl, rfl⟩
theorem witness_EncodeOfDecoded : decode 0x02030042 = .ok (.convStep 3 2) := by decide
/-- The format hypotheses of the command statements: a word with the opcode, with reserved fields 0 and not 0. -/
theorem witness_formats :
    (0x00000052 : Word).extractLsb' 0 8 = 0x52 ∧ (0x00000052 : Word).extractLsb' 8 24 = 0 ∧
    (0x80000052 : Word).extractLsb' 0 8 = 0x52 ∧ (0x80000052 : Word).extractLsb' 8 24 ≠ 0 ∧
    (0x0000FF10 : Word).extractLsb' 0 8 = 0x10 ∧ (0x0000FF10 : Word).extractLsb' 16 16 = 0 ∧
    (0xFFFF0040 : Word).extractLsb' 0 8 = 0x40 ∧ (0xFFFF0040 : Word).extractLsb' 8 8 = 0 ∧
    (0x00000042 : Word).extractLsb' 0 8 = 0x42 ∧ (0x00008042 : Word).extractLsb' 8 8 ≠ 0 ∧
    (0x00000051 : Word).extractLsb' 0 8 = 0x51 := by decide

/-- A word of each format with a nonzero reserved field, and words with the first and the last illegal OP. -/
theorem witness_ReservedFieldsExactly :
    NonzeroReserved 0x00010110 ∧ NonzeroReserved 0x00080140 ∧ NonzeroReserved 0x80000000 ∧
    ¬ NonzeroReserved 0xFFFFFF51 ∧
    ((0x00000002 : Word).extractLsb' 0 8).toNat ∉ opcodes ∧ ((0xFFFFFFFF : Word).extractLsb' 0 8).toNat ∉ opcodes := by
  unfold NonzeroReserved
  decide

/-- A state with something in every unit, and the host events `es`. -/
def busy (es : List HostEvent) : State :=
  { (delivered 20 [[], [], [0xC0], []]) with
    ibuf := [(0, 0xA0), (255, 1)], obuf := [(0, 0xA0)], olen := 8, qdata := [2, 7, 8, 1, 9], convStarted := true,
    convDp := 180, fault := true, faultCode := .bus, result := .faulted, inbox := es }

/-- The invariant of a busy state. -/
theorem busy_Inv : (busy []).Inv := by
  constructor <;> try decide
  intro i hi
  have h8 : 8 ≤ i := hi
  have hr : Memory.read [(0, 0xA0)] (i / 8) = 0 := by
    simp [Memory.read, Memory.unlisted, show i / 8 ≠ 0 by omega]
  show (Memory.read [(0, 0xA0)] (i / 8)).getLsbD (7 - i % 8) = false
  rw [hr]
  simp

/-- The premise of StepKeepsInvariant, RegisterMapReads and IbufByteAccess. -/
theorem witness_Inv (es : List HostEvent) : (busy es).Inv := { busy_Inv with }

theorem witness_RegisterMapReads :
    ∀ a ∈ [0x00, 0x04, 0x08, 0x0C, 0x10, 0x14, 0x18, 0x1C, 0x20, 0x24, 0x28, 0x2C],
      (busy [.read a 32]).Inv ∧ NextEvent (busy [.read a 32]) (.read ((busy [.read a 32]).params.blockBase + a) 32) := by
  intro a _
  exact ⟨witness_Inv _, by simp [NextEvent, busy, delivered, jitter, State.reset, State.init, Params.vectorDefaults]⟩
theorem witness_IbufByteAccess :
    (busy [.write 0x1FF 8 0x5A]).Inv ∧ 255 < 256 ∧
    NextEvent (busy [.write 0x1FF 8 0x5A]) (.write ((busy [.write 0x1FF 8 0x5A]).params.blockBase + 0x100 + 255) 8 0x5A) ∧
    NextEvent (busy [.read 0x100 8]) (.read ((busy [.read 0x100 8]).params.blockBase + 0x100 + 0) 8) :=
  ⟨witness_Inv _, by decide, rfl, rfl⟩
theorem witness_ObufByteAccess :
    NextEvent (busy [.read 0x2FF 8]) (.read ((busy [.read 0x2FF 8]).params.blockBase + 0x200 + 255) 8) ∧
    NextEvent (busy [.write 0x200 8 1]) (.write ((busy [.write 0x200 8 1]).params.blockBase + 0x200 + 0) 8 1) :=
  ⟨rfl, rfl⟩
theorem witness_BusFaultsExactly :
    (NextEvent (facing (.read 0x30 32)) (.read ((facing (.read 0x30 32)).params.blockBase + 0x30) 32) ∧
      ¬ LegalRead 0x30 32 ∧ ¬ LegalRead 4095 8) ∧
    (NextEvent (facing (.read 0x2C 32)) (.read ((facing (.read 0x2C 32)).params.blockBase + 0x2C) 32) ∧
      LegalRead 0x2C 32 ∧ LegalRead 0x2FF 8) ∧
    (NextEvent (facing (.write 0x200 8 1)) (.write ((facing (.write 0x200 8 1)).params.blockBase + 0x200) 8 1) ∧
      ¬ LegalWrite 0x200 8 ∧ ¬ LegalWrite 0 8) ∧
    (NextEvent (facing (.write 0x1FF 8 1)) (.write ((facing (.write 0x1FF 8 1)).params.blockBase + 0x1FF) 8 1) ∧
      LegalWrite 0x1FF 8 ∧ NextEvent (facing (.write 0 32 0xFF)) (.write ((facing (.write 0 32 0xFF)).params.blockBase + 0) 32 0xFF) ∧
      LegalWrite 0 32) := by
  simp [NextEvent, facing, LegalRead, LegalWrite, State.reset, State.init, Params.vectorDefaults]

/-! The frame queue. -/

theorem witness_QPushEffect :
    (0 : BitVec 8) = 0 ∧ ((16 : BitVec 8) ≠ 0 ∧ State.reset.qdata.length + 1 + (16 : BitVec 8).toNat > State.reset.params.qCap) ∧
    ((15 : BitVec 8) ≠ 0 ∧ State.reset.qdata.length + 1 + (15 : BitVec 8).toNat ≤ State.reset.params.qCap) := by decide
theorem witness_QPopEffect :
    State.reset.qdata = [] ∧ (busy []).qdata = 2 :: ([7, 8] ++ [1, 9]) ∧ ([7, 8] : List Byte).length = (2 : Byte).toNat := by
  decide
theorem witness_QueueIsFifo :
    GoodPayloads [[7, 8], [9]] ∧ (busy []).qdata = queueBytes [[7, 8], [9]] ∧
    State.reset.qdata = queueBytes [] ∧ GoodPayloads [] ∧
    exec (.qPush 1) (busy []) = .next (after (exec (.qPush 1) (busy []))) ∧
    exec .nop (busy []) = .next (after (exec .nop (busy []))) := by
  refine ⟨?_, by decide, by decide, ?_, rfl, rfl⟩ <;> simp [GoodPayloads]
theorem witness_QueueCapacityBound :
    (busy []).qdata.length ≤ (busy []).params.qCap ∧
    execAll [.qPush 1, .qPop] (busy []) = .next (after (execAll [.qPush 1, .qPop] (busy []))) ∧
    (after (exec (.qPush 11) (busy []))).result = .qFull ∧
    exec (.qPush 11) (busy []) = .next (after (exec (.qPush 11) (busy []))) := by
  refine ⟨by decide, rfl, by decide, rfl⟩

/-! Errors in codewords: the encoder's output with bits flipped, as input of the decoder. -/

/-- The output of the command `enc` on `bs`. -/
def encoded (enc : Instr) (bs : List Byte) : State := after (exec enc (input bs))

/-- An error in no bit, in the first and last bit alone, and in both of them. -/
theorem witness_HammingErrorCorrection :
    ∀ c ∈ [(Instr.h15113aEnc, 15), (.h15113bEnc, 15), (.h1393Enc, 13), (.h17123Enc, 17)],
      exec c.1 (input [0xB3, 0xA0]) = .next (encoded c.1 [0xB3, 0xA0]) ∧
      ∀ errs ∈ [[], [0], [c.2 - 1], [0, c.2 - 1]], ∀ j < c.2,
        (receive (encoded c.1 [0xB3, 0xA0]) errs).ibuf.bit j =
          ((encoded c.1 [0xB3, 0xA0]).obuf.bit j ^^ decide (j ∈ errs)) := by
  intro c hc
  refine ⟨?_, ?_⟩
  · fin_cases hc <;> rfl
  · revert c
    decide +kernel
/-- Two inputs of H15113A_DEC that agree on its 15 bits and differ after them. -/
theorem witness_HammingErrorCorrection_input :
    (∀ j < 15, (input [0xB3, 0xAA]).ibuf.bit j = (input [0xB3, 0xAB]).ibuf.bit j) ∧
    (input [0xB3, 0xAA]).ibuf ≠ (input [0xB3, 0xAB]).ibuf := by decide +kernel
theorem witness_GolayDecodeEffect_clean : GolayMultiple (numberOf (input [0xA5, 0x76, 0xB0]).ibuf.bit 19) :=
  ⟨193, by decide, by decide +kernel⟩
theorem witness_GolayDecodeEffect_corrected :
    (1 <<< 18 < 2 ^ 19 ∧ weight 19 (1 <<< 18) = 1 ∧ GolayMultiple (numberOf (input [0x25, 0x76, 0xB0]).ibuf.bit 19 ^^^ 1 <<< 18)) ∧
    (0x40201 < 2 ^ 19 ∧ weight 19 0x40201 = 3 ∧ GolayMultiple (numberOf (input [0x25, 0x36, 0x90]).ibuf.bit 19 ^^^ 0x40201)) :=
  ⟨⟨by decide, by decide +kernel, 193, by decide, by decide +kernel⟩,
    ⟨by decide, by decide +kernel, 193, by decide, by decide +kernel⟩⟩
/-- Vector 4.2.4a. -/
theorem witness_GolayDecodeEffect_uncorrectable :
    ∀ e < 2 ^ 19, weight 19 e ≤ 3 → ¬ GolayMultiple (numberOf (input [0xDD, 0x76, 0xB0]).ibuf.bit 19 ^^^ e) := by
  rintro e - he ⟨q, hq, hm⟩
  have h : ∀ q < 256, 4 ≤ weight 19 (numberOf (input [0xDD, 0x76, 0xB0]).ibuf.bit 19 ^^^ clmul 8 q 0xC75) := by
    decide +kernel
  have := h q hq
  rw [hm, ← Nat.xor_assoc, Nat.xor_self, Nat.zero_xor] at this
  omega
theorem witness_GolayCorrectsThreeErrors :
    exec .golayEnc (input [0xA5]) = .next (encoded .golayEnc [0xA5]) ∧
    ∀ errs ∈ [[], [0], [0, 9, 18]], errs.Nodup ∧ errs.length ≤ 3 ∧ (∀ e ∈ errs, e < 19) ∧
      ∀ j < 19, (receive (encoded .golayEnc [0xA5]) errs).ibuf.bit j =
        ((encoded .golayEnc [0xA5]).obuf.bit j ^^ decide (j ∈ errs)) := ⟨rfl, by decide +kernel⟩
/-- For BptcRoundTrip, BptcCorrectsSingleErrors (the first and the last bit) and BptcDoubleErrorPayload. -/
theorem witness_Bptc :
    exec .bptcEnc (input [0x12, 0x34]) = .next (encoded .bptcEnc [0x12, 0x34]) ∧
    (receive (encoded .bptcEnc [0x12, 0x34]) [0, 195]).params.bptcOrder = .columnsThenRows ∧
    ∀ errs ∈ [[], [0], [195], [0, 195]], ∀ j < 196, (receive (encoded .bptcEnc [0x12, 0x34]) errs).ibuf.bit j =
      ((encoded .bptcEnc [0x12, 0x34]).obuf.bit j ^^ decide (j ∈ errs)) := ⟨rfl, rfl, by decide +kernel⟩
/-- A block that ends clean, one corrected in its first pass, and one left with a check that no pass corrects. -/
theorem witness_BptcDecodeCompletes :
    ((blockAfter State.reset 1).2 = false ∧ BptcCodeword (blockAfter State.reset 1).1) ∧
    ((blockAfter (input [0x40]) 1).2 = true ∧ (blockAfter (input [0x40]) 2).2 = false ∧
      BptcCodeword (blockAfter (input [0x40]) 2).1) ∧
    ((blockAfter (input [0, 0, 0, 4, 0, 0, 0, 0, 0, 0, 0, 0, 0, 0, 8]) 1).2 = false ∧
      ¬ BptcCodeword (blockAfter (input [0, 0, 0, 4, 0, 0, 0, 0, 0, 0, 0, 0, 0, 0, 8]) 1).1) := by
  refine ⟨⟨?_, ?_, ?_⟩, ⟨?_, ?_, ?_, ?_⟩, ?_, fun h => absurd (h.2 0 (by decide)) ?_⟩ <;> decide +kernel
theorem witness_BptcCleanExactlyOnCodewords :
    exec .bptcDec State.reset = .next (after (exec .bptcDec State.reset)) ∧
    (after (exec .bptcDec State.reset)).result = .clean ∧ BptcCodeword (matrixOf State.reset.ibuf.bit) := by
  refine ⟨rfl, by decide +kernel, ?_, ?_⟩ <;> decide +kernel

/-! The convolutional code. -/

theorem witness_ConvEncodeEffect :
    (0 : BitVec 16) = 0 ∧ 1024 < (1025 : BitVec 16).toNat ∧ (1 : BitVec 16) ≠ 0 ∧ (1 : BitVec 16).toNat ≤ 1024 ∧
    (1024 : BitVec 16) ≠ 0 ∧ (1024 : BitVec 16).toNat ≤ 1024 := by decide
theorem witness_ConvStepEffect :
    (State.reset.params.convQ < (2 : BitVec 8).toNat ∧ (1 : BitVec 8).toNat ≤ State.reset.params.convQ) ∧
    State.reset.convStarted = false ∧ ((decoder 180).convStarted = true ∧ (decoder 180).convDp = 180) ∧
    ((decoder 179).convStarted = true ∧ (decoder 179).convDp < 180) := by decide
/-- The two clauses on the new metric at their boundary, 65535 and 65536, for CONV_Q 127 and the pair (64, 64). -/
theorem witness_ConvStepEffect_metric :
    acsMetric (Vector.replicate 16 65409) 127 64 64 0 = 65535 ∧ acsMetric (Vector.replicate 16 65410) 127 64 64 0 = 65536 ∧
    (64 : BitVec 8).toNat ≤ 127 := by decide +kernel
theorem witness_TrellisFollowsTheCode : 0 ≤ 127 ∧ 127 ≤ 127 ∧ 15 < 16 := by decide
theorem witness_ConvChainbackEffect :
    (0 : BitVec 16) = 0 ∧ ((1 : BitVec 16) ≠ 0 ∧ State.reset.convStarted = false) ∧
    ((5 : BitVec 16) ≠ 0 ∧ (decoder 4).convStarted = true ∧ (decoder 4).convDp < (5 : BitVec 16).toNat) ∧
    ((180 : BitVec 16) ≠ 0 ∧ (decoder 180).convStarted = true ∧ (180 : BitVec 16).toNat ≤ (decoder 180).convDp) := by
  decide
theorem witness_ConvRoundTrip : State.reset.params.legal = true ∧ 1 ≤ 1 ∧ 1 ≤ 176 ∧ 176 ≤ 176 := by decide

/-- A decoder of CONV_Q 127 with `dp` stored decisions and all metrics `m`. -/
def loud (dp : Nat) (m : BitVec 16) : State :=
  { (decoder dp) with params := { Params.vectorDefaults with convQ := 127 }, pm := Vector.replicate 16 m }

theorem witness_MetricBoundKeptByStep :
    (loud 179 45466).params.convQ ≤ 127 ∧ (127 : BitVec 8).toNat ≤ (loud 179 45466).params.convQ ∧
    (loud 179 45466).convStarted = true ∧ (loud 179 45466).convDp < 180 ∧
    ∀ i < 16, ((loud 179 45466).pm.getD i 0).toNat ≤ 2 * (loud 179 45466).params.convQ * (loud 179 45466).convDp := by
  decide +kernel
/-- The 180th step after a CONV_START, some of its decisions taken back by a chainback; and a chainback. -/
theorem witness_MetricBoundKeptByEveryStep :
    ((loud 4 45466).params.legal = true ∧ 179 < 180 ∧
      ∀ i < 16, ((loud 4 45466).pm.getD i 0).toNat ≤ 2 * (loud 4 45466).params.convQ * 179) ∧
    (∃ t, StepsTo { (loud 4 45466) with inbox := [.write 0 32 0x40400042] } t ∧ t.convDp = (loud 4 45466).convDp + 1) ∧
    ∃ t, StepsTo { (loud 4 45466) with inbox := [.write 0 32 0x00010043] } t ∧ t.convDp ≠ (loud 4 45466).convDp + 1 :=
  ⟨by decide +kernel, ⟨_, rfl, by decide +kernel⟩, _, rfl, by decide +kernel⟩

/-! The jitter buffer. -/

theorem witness_JbAddEffect :
    (0 : BitVec 8) = 0 ∧ State.reset.params.jbBlockBytes < (9 : BitVec 8).toNat ∧
    State.reset.params.jbSeqMod ≤ (256 : BitVec 16).toNat ∧
    (State.reset.params.legal = true ∧ (8 : BitVec 8) ≠ 0 ∧ (8 : BitVec 8).toNat ≤ State.reset.params.jbBlockBytes ∧
      (255 : BitVec 16).toNat < State.reset.params.jbSeqMod) ∧
    (let s := jitter 0 0 [[0xA0], [], [0xC0], []]
     s.params.jbSlots ≤ windowDistance s 14 ∧ s.params.jbSlots ≤ windowDistance s 9 ∧
     (windowDistance s 10 < s.params.jbSlots ∧ slot s ((s.jbH + windowDistance s 10) % s.params.jbSlots) ≠ []) ∧
     (windowDistance s 13 < s.params.jbSlots ∧ slot s ((s.jbH + windowDistance s 13) % s.params.jbSlots) = [])) := by
  decide +kernel
/-- A reset state with a byte in IBUF. -/
theorem input_Inv : (input [0xA0]).Inv := by
  constructor <;> try decide
  intro i _
  simp [input, State.reset, State.init, Memory.bit, Memory.unlisted]
theorem witness_FirstFrameAnchorsWindow :
    (input [0xA0]).Inv ∧ (input [0xA0]).jbArmed = false ∧ (8 : BitVec 8) ≠ 0 ∧
    (8 : BitVec 8).toNat ≤ (input [0xA0]).params.jbBlockBytes ∧
    (255 : BitVec 16).toNat < (input [0xA0]).params.jbSeqMod :=
  ⟨input_Inv, by decide⟩
/-- The frame just behind the head, and the one farthest behind it that is still out of the window. -/
theorem witness_LateFramesRejected :
    (busy []).Inv ∧ (busy []).jbArmed = true ∧ (1 : BitVec 8) ≠ 0 ∧ (1 : BitVec 8).toNat ≤ (busy []).params.jbBlockBytes ∧
    (10 : BitVec 16).toNat = modSub ((busy []).jbSeq0 + (busy []).jbH) 1 (busy []).params.jbSeqMod ∧
    252 ≤ (busy []).params.jbSeqMod - (busy []).params.jbSlots ∧
    (15 : BitVec 16).toNat = modSub ((busy []).jbSeq0 + (busy []).jbH) 252 (busy []).params.jbSeqMod :=
  ⟨witness_Inv [], by decide +kernel⟩

/-- One state for each clause of JbGetEffect: not due, the counter limit, a frame, a repeat, a miss. -/
theorem witness_JbGetEffect :
    (¬ HeadDue (jitter 0 59 [[1], [], [], []]) ∧ ¬ HeadDue (jitter 1 60 [[1], [], [], []])) ∧
    (HeadDue { (jitter 4294967295 4294967295 [[], [], [], []]) with
        params := { Params.vectorDefaults with jbDelayMs := 0, jbBlockMs := 1 } }) ∧
    (HeadDue (jitter 0 60 [[1], [], [], []]) ∧ slot (jitter 0 60 [[1], [], [], []]) 0 ≠ []) ∧
    (HeadDue (delivered 20 [[], [], [], []]) ∧ slot (delivered 20 [[], [], [], []]) 1 = [] ∧
      (delivered 20 [[], [], [], []]).jbLastValid = true ∧
      (delivered 20 [[], [], [], []]).jbRepeats < (delivered 20 [[], [], [], []]).params.jbRepeatLimit) ∧
    (HeadDue (jitter 1 80 [[], [], [], []]) ∧ slot (jitter 1 80 [[], [], [], []]) 1 = [] ∧
      (jitter 1 80 [[], [], [], []]).jbLastValid = false) := by
  unfold HeadDue
  decide +kernel
/-- The states before each round of the commands `cmds` with a JB_GET after each, from the JB_DATA of `s`. -/
def rounds (cmds : Nat → List Instr) (s : State) : Nat → State
  | 0 => after (exec .jbGet s)
  | a + 1 => after (exec .jbGet (after (execAll (cmds a) (rounds cmds s a))))

/-- The frame after the gap: JB_ADD of IBUF[0] with this sequence number in round `a`, JB_CLOCK 20 in every round. -/
def lateAdd (a : Nat) (seq : BitVec 16) (b : Nat) : List Instr :=
  if b = a then [.jbAdd 1 seq, .jbClock 20] else [.jbClock 20]

/-- An outcome is a next state. -/
def isNext : Host.Outcome State Fault Refusal → Bool
  | .next _ => true
  | _ => false

theorem next_after {o : Host.Outcome State Fault Refusal} (h : isNext o = true) : o = .next (after o) := by
  cases o <;> first | rfl | simp [isNext] at h

/-- The frame of sequence number 10 is due, alone in the buffer. -/
def gapEmpty : State := { (jitter 0 60 [[0xA0], [], [], []]) with ibuf := [(0, 0xE0)] }

/-- The frame of sequence number 10 is due, and that of 13 is held. -/
def gapHeld : State := { (jitter 0 60 [[0xA0], [], [], [0xC0]]) with ibuf := [(0, 0xE0)] }

theorem gapEmpty_Inv : gapEmpty.Inv := by
  constructor <;> try decide
  intro i _
  simp [gapEmpty, jitter, State.reset, State.init, Memory.bit, Memory.unlisted]
theorem gapHeld_Inv : gapHeld.Inv := by
  constructor <;> try decide
  intro i _
  simp [gapHeld, jitter, State.reset, State.init, Memory.bit, Memory.unlisted]

/-- The state before the JB_GET of each round. -/
def beforeGet (cmds : Nat → List Instr) (s : State) (a : Nat) : State := after (execAll (cmds a) (rounds cmds s a))

theorem rounds_getsAfter (cmds : Nat → List Instr) (s : State) (g : Nat)
    (h : ∀ a ≤ g, isNext (execAll (cmds a) (rounds cmds s a)) = true ∧ HeadDue (beforeGet cmds s a) ∧
      isNext (exec .jbGet (beforeGet cmds s a)) = true ∧ ∀ i ∈ cmds a, i ≠ .jbGet ∧ i ≠ .jbReset ∧ i ≠ .clrAll) :
    GetsAfter cmds (rounds cmds s) (beforeGet cmds s) g := fun a ha =>
  ⟨next_after (h a ha).1, (h a ha).2.1, next_after (h a ha).2.2.1, (h a ha).2.2.2⟩

/-- A gap of five slots in a buffer of four, with JB_CLOCK before each JB_GET and the next frame accepted in it. -/
theorem witness_SilenceFill :
    gapEmpty.Inv ∧ exec .jbGet gapEmpty = .next (rounds (lateAdd 3 16) gapEmpty 0) ∧
    (rounds (lateAdd 3 16) gapEmpty 0).result = .jbData ∧ (rounds (lateAdd 3 16) gapEmpty 0).jbH + 5 < 2 ^ 32 - 1 ∧
    GetsAfter (lateAdd 3 16) (rounds (lateAdd 3 16) gapEmpty) (beforeGet (lateAdd 3 16) gapEmpty) 5 ∧
    GapNeverAccepted (lateAdd 3 16) (rounds (lateAdd 3 16) gapEmpty) 5 ∧
    NextFrameStored (lateAdd 3 16) (rounds (lateAdd 3 16) gapEmpty) 5 [0xE0] := by
  refine ⟨gapEmpty_Inv, rfl, by decide +kernel, by decide +kernel, rounds_getsAfter _ _ _ ?_, ⟨by decide +kernel, ?_⟩,
    .inr ⟨3, by decide, [], 1, 16, [.jbClock 20], rounds (lateAdd 3 16) gapEmpty 3, _, rfl, rfl,
      next_after (by decide +kernel), by decide +kernel, by decide +kernel, by decide +kernel⟩⟩
  · unfold HeadDue
    decide +kernel
  · rintro a - b hb f ⟨pre, len, q, post, x, y, hc, -, -, -, hq, -⟩
    have hm : Instr.jbAdd len q ∈ lateAdd 3 16 a := by rw [hc]; simp
    have h16 : q = 16 := by
      unfold lateAdd at hm
      split at hm <;> simp at hm
      exact hm.2
    subst h16
    have hall : ∀ b < 5, seqAhead (rounds (lateAdd 3 16) gapEmpty 0) b ≠ (16 : BitVec 16).toNat := by decide +kernel
    exact hall b hb hq.symm
/-- A gap of two slots with the next frame held from the start. -/
theorem witness_SilenceFill_held :
    gapHeld.Inv ∧ exec .jbGet gapHeld = .next (rounds (lateAdd 9 0) gapHeld 0) ∧
    (rounds (lateAdd 9 0) gapHeld 0).result = .jbData ∧ (rounds (lateAdd 9 0) gapHeld 0).jbH + 2 < 2 ^ 32 - 1 ∧
    GetsAfter (lateAdd 9 0) (rounds (lateAdd 9 0) gapHeld) (beforeGet (lateAdd 9 0) gapHeld) 2 ∧
    GapNeverAccepted (lateAdd 9 0) (rounds (lateAdd 9 0) gapHeld) 2 ∧
    NextFrameStored (lateAdd 9 0) (rounds (lateAdd 9 0) gapHeld) 2 [0xC0] := by
  refine ⟨gapHeld_Inv, rfl, by decide +kernel, by decide +kernel, rounds_getsAfter _ _ _ ?_, ⟨by decide +kernel, ?_⟩,
    .inl (by decide +kernel)⟩
  · unfold HeadDue
    decide +kernel
  · rintro a ha b - f ⟨pre, len, q, post, x, y, hc, -⟩
    have hm : Instr.jbAdd len q ∈ lateAdd 9 0 a := by rw [hc]; simp
    rw [lateAdd, if_neg (by omega)] at hm
    simp at hm
theorem witness_AcceptedFramesKept :
    slot (busy []) 2 ≠ [] ∧ exec (.jbAdd 1 14) (busy []) = .next (after (exec (.jbAdd 1 14) (busy []))) :=
  ⟨by decide, rfl⟩

/-! The whole machine. -/

theorem witness_StepKeepsInvariant :
    (busy [.write 0 32 0x52]).Inv ∧ StepsTo (busy [.write 0 32 0x52]) (after (step (busy [.write 0 32 0x52]))) :=
  ⟨witness_Inv _, rfl⟩
theorem witness_FaultedCommandHasNoOtherEffect :
    runCommand 0x00000042 State.reset = .next (after (runCommand 0x00000042 State.reset)) ∧
    (after (runCommand 0x00000042 State.reset)).result = .faulted := ⟨rfl, by decide +kernel⟩
theorem witness_FaultStaysUntilReset :
    StepsTo (busy [.write 0 32 1]) (after (step (busy [.write 0 32 1]))) ∧ ¬ NextEvent (busy [.write 0 32 1]) .reset ∧
    (busy [.write 0 32 1]).fault = true := ⟨rfl, by simp [NextEvent, busy], rfl⟩
theorem witness_ParametersNeverChange : StepsTo (busy [.reset]) (after (step (busy [.reset]))) := rfl
/-- Two inputs that agree on the bits H1393_DEC reads, and differ after them. -/
theorem witness_CodecsReadOnlyTheirInput :
    (Instr.h1393Dec, 13) ∈ codecInputs ∧ (input [0xB3, 0xD8]).params.bptcOrder = (input [0xB3, 0xDF]).params.bptcOrder ∧
    (∀ j < 13, (input [0xB3, 0xD8]).ibuf.bit j = (input [0xB3, 0xDF]).ibuf.bit j) ∧
    (1024 : BitVec 16) ≠ 0 ∧ (1024 : BitVec 16).toNat ≤ 1024 := by decide +kernel
theorem witness_CommandsNeverWriteInput : exec .jbGet (busy []) = .next (after (exec .jbGet (busy []))) := rfl

end Sys2Proof.Tests
end

section
/-! PROOFS. Parameter sets and reset (00_scope.md R6, R8; 70_reset_and_hazards.md R331). -/

namespace Sys2Proof

/-- The ranges of R6 together with R8's condition on JB_SEQ_MOD, as a proposition. -/
theorem Params.legal_iff (p : Params) : p.legal = true ↔
    2 ≤ p.qCap ∧ p.qCap ≤ 65535 ∧ 1 ≤ p.jbSlots ∧ p.jbSlots ≤ 255 ∧ 1 ≤ p.jbBlockBytes ∧ p.jbBlockBytes ≤ 255 ∧
    1 ≤ p.jbBlockMs ∧ p.jbBlockMs ≤ 65535 ∧ p.jbDelayMs ≤ 65535 ∧ p.jbSlots ≤ p.jbSeqMod ∧ p.jbSeqMod ≤ 65535 ∧
    p.jbRepeatLimit ≤ 255 ∧ 1 ≤ p.convQ ∧ p.convQ ≤ 127 := by
  simp only [Params.legal, Bool.and_eq_true, decide_eq_true_eq, and_assoc]

namespace Machine

theorem State.resetWith_of_legal {p : Params} (h : p.legal = true) :
    State.resetWith p = .next (State.init p) := if_pos h

theorem State.resetWith_of_not_legal {p : Params} (h : p.legal = false) :
    State.resetWith p = .refused .illegalParameters := if_neg (Bool.eq_false_iff.mp h)

/-- No reset state exists for an illegal set, and one exists for every legal set (R8). -/
theorem State.resetWith_next_iff (p : Params) : (∃ t, State.resetWith p = .next t) ↔ p.legal = true := by
  constructor
  · rintro ⟨t, ht⟩
    by_contra hillegal
    rw [resetWith_of_not_legal (Bool.eq_false_iff.mpr hillegal)] at ht
    cases ht
  · exact fun h => ⟨State.init p, resetWith_of_legal h⟩

/-- Settles O2, one lemma for each part: the legal sets, which sets have a reset state, and the refusal of the others. -/
theorem parametersLegalOrRefused : Obligations.ParametersLegalOrRefused := fun p =>
  ⟨p.legal_iff, State.resetWith_next_iff p, State.resetWith_of_not_legal⟩

end Machine
end Sys2Proof
end

section
/-! PROOFS. What a command can do, said once: every command raises a fault, or sets RESULT and AUX after one update of the
units and perhaps an output (10_state.md R24 to R33, 30_encoding.md R74, 60_exceptions.md R300). -/

namespace Sys2Proof.Machine

/-! ### The updates of the units -/

/-- What a command that raises no fault can do to the queue, the jitter buffer and the decoder, with what its checks have
established (40_system.md, 41_frame_queue.md, 45_convolutional.md, 46_jitter_buffer.md). -/
inductive UnitUpdate (s : State) : State → Prop where
  /-- Nothing. -/
  | unchanged : UnitUpdate s s
  /-- CLR_ALL (R101). -/
  | allCleared : UnitUpdate s (clearDecoder (clearJitter (clearQueue s)))
  /-- Q_CLEAR (R113). -/
  | queueCleared : UnitUpdate s (clearQueue s)
  /-- Q_PUSH with room for the record (R111). -/
  | recordPushed (len : BitVec 8) (hlen : len.toNat ≠ 0) (hroom : s.qUsed + 1 + len.toNat ≤ s.params.qCap) :
      UnitUpdate s { s with qdata := s.qdata ++ record len (inputBytes len.toNat s) }
  /-- Q_POP of the oldest record (R112). -/
  | recordPopped (n : Byte) (rest : List Byte) (hq : s.qdata = n :: rest) :
      UnitUpdate s { s with qdata := rest.drop n.toNat }
  /-- CONV_START (R203). -/
  | decoderStarted :
      UnitUpdate s { s with pm := Vector.replicate 16 0, convDp := 0, convStarted := true }
  /-- CONV_STEP past its three checks (R204). -/
  | decoderStepped (s0 s1 : Nat) (hs0 : s0 ≤ s.params.convQ) (hs1 : s1 ≤ s.params.convQ)
      (hstarted : s.convStarted = true) (hroom : s.convDp ≠ 180) : UnitUpdate s (convStepState s0 s1 s)
  /-- CONV_CHAINBACK of at most the stored decisions (R207). -/
  | decisionsRead (n : Nat) (hpos : n ≠ 0) (hn : n ≤ s.convDp) : UnitUpdate s { s with convDp := s.convDp - n }
  /-- JB_RESET (R232). -/
  | jitterReset : UnitUpdate s (clearJitter s)
  /-- JB_ADD of a frame that fits a slot, the window anchored before (R233). -/
  | frameStored (i : Nat) (frame : List Byte) (hfits : frame.length ≤ s.params.jbBlockBytes)
      (harmed : s.jbArmed = true) : UnitUpdate s { s with jbSlots := s.jbSlots.set i frame }
  /-- JB_ADD of the frame that anchors the window (R233). -/
  | firstFrameStored (i seq : Nat) (frame : List Byte) (hfits : frame.length ≤ s.params.jbBlockBytes)
      (hseq : seq < s.params.jbSeqMod) :
      UnitUpdate s { s with jbSlots := s.jbSlots.set i frame, jbSeq0 := seq, jbArmed := true, jbElapsed := 0 }
  /-- JB_GET that delivers the head slot's frame (R234). -/
  | frameDelivered (i : Nat) (hheld : jbSlot s i ≠ []) (harmed : s.jbArmed = true) (hmax : s.jbH ≠ jbCounterMax) :
      UnitUpdate s
        { s with
          jbH := s.jbH + 1
          jbLast := jbSlot s i
          jbLastValid := true
          jbRepeats := 0
          jbSlots := s.jbSlots.set i [] }
  /-- JB_GET that repeats the last frame (R234). -/
  | frameRepeated (harmed : s.jbArmed = true) (hmax : s.jbH ≠ jbCounterMax)
      (hlimit : s.jbRepeats < s.params.jbRepeatLimit) :
      UnitUpdate s { s with jbH := s.jbH + 1, jbRepeats := s.jbRepeats + 1 }
  /-- JB_GET that passes over an empty head slot (R234). -/
  | frameMissed (harmed : s.jbArmed = true) (hmax : s.jbH ≠ jbCounterMax) : UnitUpdate s { s with jbH := s.jbH + 1 }
  /-- JB_CLOCK while armed (R235). -/
  | clockAdvanced (ms : Nat) (harmed : s.jbArmed = true) :
      UnitUpdate s { s with jbElapsed := min (s.jbElapsed + ms) jbCounterMax }

/-- What a command can do (R300, R11, R24): the fault of a check, or RESULT and AUX after an update of the units, with or
without an output. The invariant bounds the output's length: a slot is no longer than R31 says. -/
inductive CommandEffect (s : State) : State → Prop where
  /-- A check of the command failed (R300). -/
  | faults (e : ErrCode) (he : e ≠ .noFault) : CommandEffect s (raiseFault e s)
  /-- The command completed without an output. -/
  | reports (r : ResultCode) (a : Byte) {u : State} (hr : r ≠ .faulted) (hu : UnitUpdate s u) :
      CommandEffect s (setResult r a u)
  /-- The command completed with the output `d`. -/
  | outputs (r : ResultCode) (a : Byte) (d : List Bool) {u : State} (hr : r ≠ .faulted)
      (hd : s.Inv → d.length ≤ 2048) (hu : UnitUpdate s u) : CommandEffect s (setResult r a (out d u))

/-- The outcome `o` is a next state, and that state has the effect of a command executed in `s`. -/
def Completes (s : State) (o : Host.Outcome State Fault Refusal) : Prop := ∃ t, o = .next t ∧ CommandEffect s t

theorem completes_next {s t : State} (h : CommandEffect s t) : Completes s (.next t) := ⟨t, rfl, h⟩

/-! ### The operand checks -/

theorem qPushBadOperand_iff (len : BitVec 8) : qPushBadOperand len = true ↔ len.toNat = 0 := decide_eq_true_iff

theorem convEncBadOperand_iff (n : BitVec 16) : convEncBadOperand n = true ↔ n.toNat = 0 ∨ 1024 < n.toNat := by
  simp [convEncBadOperand]

theorem convStepBadOperand_iff (p : Params) (s0 s1 : BitVec 8) :
    convStepBadOperand p s0 s1 = true ↔ p.convQ < s0.toNat ∨ p.convQ < s1.toNat := by
  simp [convStepBadOperand]

theorem convChainbackBadOperand_iff (n : BitVec 16) : convChainbackBadOperand n = true ↔ n.toNat = 0 :=
  decide_eq_true_iff

theorem jbAddBadOperand_iff (p : Params) (len : BitVec 8) (seq : BitVec 16) :
    jbAddBadOperand p len seq = true ↔ len.toNat = 0 ∨ p.jbBlockBytes < len.toNat ∨ p.jbSeqMod ≤ seq.toNat := by
  simp [jbAddBadOperand, or_assoc]

/-! ### Sizes of the inputs and outputs -/

@[simp] theorem inputBits_length (n : Nat) (s : State) : (inputBits n s).length = n := s.ibuf.bits_length n

@[simp] theorem inputBytes_length (n : Nat) (s : State) : (inputBytes n s).length = n := s.ibuf.bytes_length n

theorem bytesBits_length_le {bs : List Byte} (h : bs.length ≤ 255) : (bytesBits bs).length ≤ 2048 := by
  rw [bytesBits_length]
  omega

/-- What holds of every element and of the default holds at every index. -/
theorem getD_of_forall {α : Type} {P : α → Prop} {l : List α} {d : α} (hl : ∀ x ∈ l, P x) (hd : P d) (i : Nat) :
    P (l.getD i d) := by
  by_cases hi : i < l.length
  · rw [List.getD_eq_getElem _ _ hi]
    exact hl _ (List.getElem_mem hi)
  · rwa [List.getD_eq_default _ _ (Nat.le_of_not_lt hi)]

/-- A slot holds at most JB_BLOCK_BYTES bytes, also at an index past the slots (R31). -/
theorem jbSlot_length_le {s : State} (h : s.Inv) (i : Nat) : (jbSlot s i).length ≤ s.params.jbBlockBytes :=
  getD_of_forall (P := fun f : List Byte => f.length ≤ s.params.jbBlockBytes) h.slots_fit (Nat.zero_le _) i

/-- A frame of a slot, as an output, fits OBUF. -/
theorem frame_bits_le {s : State} (h : s.Inv) {f : List Byte} (hf : f.length ≤ s.params.jbBlockBytes) :
    (bytesBits f).length ≤ 2048 := by
  obtain ⟨-, -, -, hbytes, -⟩ := legal_bounds h.params_legal
  exact bytesBits_length_le (hf.trans hbytes)

/-! ### The codecs -/

/-- A codec command: an output, RESULT and AUX (R145). -/
theorem codec_completes (s : State) {r : ResultCode} {d : List Bool} (a : Byte) (hr : r ≠ .faulted)
    (hd : d.length ≤ 2048) : Completes s (.next (setResult r a (out d s))) :=
  completes_next (.outputs r a d hr (fun _ => hd) .unchanged)

theorem hammingEncode_completes (c : HammingCode) (hc : c.n ≤ 2048) (s : State) :
    Completes s (.next (hammingEncode c s)) :=
  codec_completes s _ (by decide) (by simpa [HammingCode.n] using hc)

theorem HammingCode.correct_ne_faulted (c : HammingCode) (d : List Bool) : (c.correct d).1 ≠ .faulted := by
  rcases c.correct_cases d with ⟨-, h⟩ | ⟨i, -, -, -, h⟩ | ⟨-, -, h⟩ <;> simp [h]

theorem hammingDecode_completes (c : HammingCode) (hc : c.n ≤ 2048) (s : State) :
    Completes s (.next (hammingDecode c s)) :=
  codec_completes s _ (c.correct_ne_faulted _) (by simpa using hc)

theorem golayCorrect_ne_faulted (c : Nat) : (golayCorrect c).1 ≠ .faulted := by
  rcases golayCorrect_cases c with ⟨-, h⟩ | ⟨e, -, -, -, h⟩ | ⟨-, -, h⟩ <;> simp [h]

theorem execGolayEnc_completes (s : State) : Completes s (execGolayEnc s) :=
  codec_completes s _ (by decide) (by simp)

theorem execGolayDec_completes (s : State) : Completes s (execGolayDec s) :=
  codec_completes s _ (golayCorrect_ne_faulted _) (bytesBits_length_le (by simp))

theorem bptcStatus_ne_faulted (run : BptcRun) : bptcStatus run ≠ .faulted := by
  rcases bptcStatus_cases run with h | h | h <;> simp [h]

theorem execBptcEnc_completes (s : State) : Completes s (execBptcEnc s) :=
  codec_completes s _ (by decide) (by simp)

theorem execBptcDec_completes (s : State) : Completes s (execBptcDec s) :=
  codec_completes s _ (bptcStatus_ne_faulted _) (by simp)

theorem execConvEnc_completes (n : BitVec 16) (s : State) : Completes s (execConvEnc n s) := by
  unfold execConvEnc
  split_ifs with hbad
  · exact completes_next (.faults _ (by decide))
  · rw [convEncBadOperand_iff] at hbad
    exact codec_completes s _ (by decide) (by rw [convEncodeFrom_length, inputBits_length]; omega)

/-! ### The queue -/

theorem execQPush_completes (len : BitVec 8) (s : State) : Completes s (execQPush len s) := by
  unfold execQPush
  split_ifs with hbad hfull
  · exact completes_next (.faults _ (by decide))
  · exact completes_next (.reports _ _ (by decide) .unchanged)
  · rw [qPushBadOperand_iff] at hbad
    exact completes_next (.reports _ _ (by decide) (.recordPushed len hbad (by omega)))

theorem execQPop_completes (s : State) : Completes s (execQPop s) := by
  unfold execQPop
  split
  · exact completes_next (.outputs _ _ _ (by decide) (by simp) .unchanged)
  next n rest hq =>
    have hlen : (rest.take n.toNat).length ≤ 255 := (List.length_take_le _ _).trans (by omega)
    exact completes_next
      (.outputs _ _ _ (by decide) (fun _ => bytesBits_length_le hlen) (.recordPopped n rest hq))

/-! ### The decoder -/

theorem execConvStep_completes (s0 s1 : BitVec 8) (s : State) : Completes s (execConvStep s0 s1 s) := by
  unfold execConvStep
  split_ifs with hbad hstarted hfull
  · exact completes_next (.faults _ (by decide))
  · exact completes_next (.faults _ (by decide))
  · exact completes_next (.faults _ (by decide))
  · rw [convStepBadOperand_iff, not_or, Nat.not_lt, Nat.not_lt] at hbad
    exact completes_next
      (.reports _ _ (by decide) (.decoderStepped _ _ hbad.1 hbad.2 (by simpa using hstarted) hfull))

theorem execConvChainback_completes (n : BitVec 16) (s : State) : Completes s (execConvChainback n s) := by
  unfold execConvChainback
  split_ifs with hbad hstarted hrange
  · exact completes_next (.faults _ (by decide))
  · exact completes_next (.faults _ (by decide))
  · exact completes_next (.faults _ (by decide))
  · rw [convChainbackBadOperand_iff] at hbad
    have hn : n.toNat ≤ s.convDp := Nat.le_of_not_lt hrange
    refine completes_next (.outputs _ _ _ (by decide) (fun h => ?_) (.decisionsRead n.toNat hbad hn))
    have hdp := h.dp_le
    rw [chainback_length, List.length_nil]
    omega

/-! ### The jitter buffer -/

theorem jbStore_update {s : State} (i : Nat) {seq : Nat} {frame : List Byte}
    (hfits : frame.length ≤ s.params.jbBlockBytes) (hseq : seq < s.params.jbSeqMod) :
    UnitUpdate s (jbStore i seq frame s) := by
  unfold jbStore
  split_ifs with harmed
  · exact .frameStored i frame hfits harmed
  · exact .firstFrameStored i seq frame hfits hseq

theorem execJbAdd_completes (len : BitVec 8) (seq : BitVec 16) (s : State) : Completes s (execJbAdd len seq s) := by
  unfold execJbAdd
  split_ifs with hbad hwindow hheld
  · exact completes_next (.faults _ (by decide))
  · exact completes_next (.reports _ _ (by decide) .unchanged)
  · exact completes_next (.reports _ _ (by decide) .unchanged)
  · rw [jbAddBadOperand_iff] at hbad
    have hfits : (inputBytes len.toNat s).length ≤ s.params.jbBlockBytes := by rw [inputBytes_length]; omega
    exact completes_next (.reports _ _ (by decide) (jbStore_update _ hfits (by omega)))

/-- A running jitter buffer is armed (R231). -/
theorem State.armed_of_running {s : State} (h : s.jbRunning = true) : s.jbArmed = true := by
  simp_all [State.jbRunning]

theorem execJbGet_completes (s : State) : Completes s (execJbGet s) := by
  unfold execJbGet
  split_ifs with hnotDue hmax hheld hrepeat
  · exact completes_next (.outputs _ _ _ (by decide) (by simp) .unchanged)
  · exact completes_next (.faults _ (by decide))
  all_goals
    have harmed : s.jbArmed = true := State.armed_of_running (by simp_all)
  · exact completes_next (.outputs _ _ _ (by decide) (fun h => frame_bits_le h (jbSlot_length_le h _))
      (.frameDelivered _ hheld harmed hmax))
  · have hlimit : s.jbRepeats < s.params.jbRepeatLimit := by simp_all
    exact completes_next (.outputs _ _ _ (by decide) (fun h => frame_bits_le h h.last_fits)
      (.frameRepeated harmed hmax hlimit))
  · exact completes_next (.outputs _ _ _ (by decide) (by simp) (.frameMissed harmed hmax))

theorem execJbClock_completes (ms : BitVec 16) (s : State) : Completes s (execJbClock ms s) := by
  refine completes_next (.reports _ _ (by decide) ?_)
  split_ifs with harmed
  · exact .clockAdvanced _ harmed
  · exact .unchanged

/-! ### Every command -/

/-- Every command has a next state, and that state is one of those `CommandEffect` lists. -/
theorem exec_completes (i : Instr) (s : State) : Completes s (exec i s) := by
  cases i with
  | nop => exact completes_next (.reports _ _ (by decide) .unchanged)
  | clrAll => exact completes_next (.reports _ _ (by decide) .allCleared)
  | qPush len => exact execQPush_completes len s
  | qPop => exact execQPop_completes s
  | qClear => exact completes_next (.reports _ _ (by decide) .queueCleared)
  | h15113aEnc => exact hammingEncode_completes h15113a (by decide) s
  | h15113aDec => exact hammingDecode_completes h15113a (by decide) s
  | h15113bEnc => exact hammingEncode_completes h15113b (by decide) s
  | h15113bDec => exact hammingDecode_completes h15113b (by decide) s
  | h1393Enc => exact hammingEncode_completes h1393 (by decide) s
  | h1393Dec => exact hammingDecode_completes h1393 (by decide) s
  | h17123Enc => exact hammingEncode_completes h17123 (by decide) s
  | h17123Dec => exact hammingDecode_completes h17123 (by decide) s
  | golayEnc => exact execGolayEnc_completes s
  | golayDec => exact execGolayDec_completes s
  | bptcEnc => exact execBptcEnc_completes s
  | bptcDec => exact execBptcDec_completes s
  | convEnc n => exact execConvEnc_completes n s
  | convStart => exact completes_next (.reports _ _ (by decide) .decoderStarted)
  | convStep s0 s1 => exact execConvStep_completes s0 s1 s
  | convChainback n => exact execConvChainback_completes n s
  | jbReset => exact completes_next (.reports _ _ (by decide) .jitterReset)
  | jbAdd len seq => exact execJbAdd_completes len seq s
  | jbGet => exact execJbGet_completes s
  | jbClock ms => exact execJbClock_completes ms s

theorem exec_effect {i : Instr} {s t : State} (h : exec i s = .next t) : CommandEffect s t := by
  obtain ⟨u, hu, heffect⟩ := exec_completes i s
  obtain rfl := next_inj.mp (h.symm.trans hu)
  exact heffect

end Sys2Proof.Machine
end

section
/-! PROOFS. What a step can do, said once: the block idles, answers a read, executes a command word, takes a byte of IBUF,
records a bus fault, or is reset (20_memory.md R50 to R59, 60_exceptions.md R303, 70_reset_and_hazards.md R330). -/

namespace Sys2Proof.Machine

open Sys2Proof.Claims

/-- What one step can do, from the state with the next host event taken. -/
inductive StepEffect (s : State) : State → Prop where
  /-- No host event, or an access outside the window (R65, R314). -/
  | idles : StepEffect s (taken s)
  /-- A read the map allows (R59). -/
  | readAnswered (v : Word) : StepEffect s (reply v (taken s))
  /-- A read the map does not allow (R303). -/
  | readFaults : StepEffect s (reply 0 (busFault (taken s)))
  /-- A write of the word `w` to CMD: its command's effect, or the fault of checks 1 and 2 of R74 (R22). -/
  | runsCommand (w : Word) {t : State} (h : CommandEffect { taken s with cmdLast := w } t) : StepEffect s t
  /-- A byte write of IBUF (R53). -/
  | inputWritten (a : Nat) (v : Byte) (ha : a < 256) : StepEffect s { taken s with ibuf := s.ibuf.write a v }
  /-- A write the map does not allow (R303). -/
  | writeFaults : StepEffect s (busFault (taken s))
  /-- The hardware reset (R330). -/
  | resets (h : NextEvent s .reset) : StepEffect s (hardwareReset (taken s))

/-- The next state after an outcome has the effect of a step from `s`. -/
def StepCompletes (s : State) (o : Host.Outcome State Fault Refusal) : Prop := ∃ t, o = .next t ∧ StepEffect s t

theorem stepCompletes_next {s t : State} (h : StepEffect s t) : StepCompletes s (.next t) := ⟨t, rfl, h⟩

/-- A step takes the next host event (R50). -/
theorem step_of_nextEvent {s : State} {e : HostEvent} (h : NextEvent s e) : step s = hostEvent e (taken s) := by
  obtain ⟨rest, hrest⟩ := List.head?_eq_some_iff.mp h
  rw [step_cons hrest, taken, hrest, List.tail_cons]

theorem taken_of_inbox_nil {s : State} (h : s.inbox = []) : taken s = s := by
  rw [taken, h, List.tail_nil, ← h]

/-- A word that decodes runs its command with CMD_LAST set (R22, R58). -/
theorem runCommand_of_decode {w : Word} {i : Instr} (h : decode w = .ok i) (s : State) :
    runCommand w s = exec i { s with cmdLast := w } := by
  simp [runCommand, h]

theorem decodeErrCode_ne_noFault (e : DecodeError) : decodeErrCode e ≠ .noFault := by
  cases e <;> decide

theorem runCommand_completes (w : Word) (s : State) : Completes { s with cmdLast := w } (runCommand w s) := by
  unfold runCommand
  split
  next i _ => exact exec_completes i _
  next e _ => exact completes_next (.faults _ (decodeErrCode_ne_noFault e))

theorem hostRead_effect (a width : Nat) (s : State) : StepEffect s (hostRead a width (taken s)) := by
  unfold hostRead
  split
  next v _ => exact .readAnswered v
  next => exact .readFaults

theorem inIbuf_iff (a : Nat) : inIbuf a = true ↔ 0x100 ≤ a ∧ a < 0x200 := by simp [inIbuf]

theorem hostWrite_completes (a width : Nat) (v : Word) (s : State) :
    StepCompletes s (hostWrite a width v (taken s)) := by
  unfold hostWrite
  split_ifs with hcmd hbyte
  · obtain ⟨t, ht, heffect⟩ := runCommand_completes v (taken s)
    exact ⟨t, ht, .runsCommand v heffect⟩
  · obtain ⟨hlo, hhi⟩ := (inIbuf_iff a).mp hbyte.2
    exact stepCompletes_next (.inputWritten _ _ (by omega))
  · exact stepCompletes_next .writeFaults

theorem hostEvent_completes {e : HostEvent} {s : State} (h : NextEvent s e) :
    StepCompletes s (hostEvent e (taken s)) := by
  unfold hostEvent
  cases e with
  | read addr width =>
    dsimp only
    split
    · exact stepCompletes_next (hostRead_effect _ width s)
    · exact stepCompletes_next .idles
  | write addr width value =>
    dsimp only
    split
    · exact hostWrite_completes _ width value s
    · exact stepCompletes_next .idles
  | reset => exact stepCompletes_next (.resets h)

/-- Every step has a next state, and that state is one of those `StepEffect` lists. -/
theorem step_completes (s : State) : StepCompletes s (step s) := by
  cases hinbox : s.inbox with
  | nil =>
    have hidle : StepEffect s (taken s) := .idles
    rw [taken_of_inbox_nil hinbox] at hidle
    exact ⟨s, step_nil hinbox, hidle⟩
  | cons e rest =>
    have hnext : NextEvent s e := by simp [NextEvent, hinbox]
    rw [step_of_nextEvent hnext]
    exact hostEvent_completes hnext

theorem step_effect {s t : State} (h : StepsTo s t) : StepEffect s t := by
  obtain ⟨u, hu, heffect⟩ := step_completes s
  obtain rfl := next_inj.mp (h.symm.trans hu)
  exact heffect

end Sys2Proof.Machine
end

section
/-! PROOFS. The invariant of Safety.lean, kept by every update of the units, every command and every step
(10_state.md R23, R26 to R32; 41_frame_queue.md R110, R115; 46_jitter_buffer.md R232 to R234). -/

namespace Sys2Proof.Machine

open Sys2Proof.Claims

/-! ### The queue -/

/-- A record of 1..255 payload bytes, as whole records (R110). -/
theorem wholeRecords_record {len : BitVec 8} {payload : List Byte} (hlen : len.toNat ≠ 0)
    (hpayload : payload.length = len.toNat) : wholeRecords 0 (record len payload) = true := by
  have hskip := wholeRecords_payload payload
  rw [hpayload] at hskip
  simp [record, wholeRecords, hlen, hskip]

theorem inv_recordPushed {s : State} (h : s.Inv) {len : BitVec 8} (hlen : len.toNat ≠ 0)
    (hroom : s.qUsed + 1 + len.toNat ≤ s.params.qCap) :
    ({ s with qdata := s.qdata ++ record len (inputBytes len.toNat s) } : State).Inv :=
  { h with
    queue_whole := wholeRecords_append h.queue_whole (wholeRecords_record hlen (inputBytes_length _ _))
    queue_fits := by
      simp only [State.qUsed, record, List.length_append, List.length_cons, inputBytes_length] at hroom ⊢
      omega }

theorem inv_recordPopped {s : State} (h : s.Inv) {n : Byte} {rest : List Byte} (hq : s.qdata = n :: rest) :
    ({ s with qdata := rest.drop n.toNat } : State).Inv :=
  { h with
    queue_whole := by
      have hwhole := h.queue_whole
      rw [hq, wholeRecords, Bool.and_eq_true] at hwhole
      exact wholeRecords_drop hwhole.2
    queue_fits := by
      have hfits := h.queue_fits
      simp only [State.qUsed, hq, List.length_cons, List.length_drop] at hfits ⊢
      omega }

/-! ### The decoder -/

theorem inv_decisionsRead {s : State} (h : s.Inv) (n : Nat) : ({ s with convDp := s.convDp - n } : State).Inv :=
  { h with
    dp_le := (Nat.sub_le _ _).trans h.dp_le
    not_started := fun hstopped => by simp [h.not_started hstopped] }

/-! ### The jitter buffer -/

/-- Nothing is asked of an armed buffer about its disarmed state (R232). -/
theorem whenDisarmed_of_armed {s : State} {P : Prop} (harmed : s.jbArmed = true) : s.jbArmed = false → P := by
  simp [harmed]

/-- A frame that fits a slot, put into any slot, leaves every slot within its size (R31). -/
theorem slots_fit_set {s : State} (h : s.Inv) (i : Nat) {frame : List Byte}
    (hfits : frame.length ≤ s.params.jbBlockBytes) :
    ∀ f ∈ s.jbSlots.set i frame, f.length ≤ s.params.jbBlockBytes := fun f hf => by
  rcases List.mem_or_eq_of_mem_set hf with hold | rfl
  · exact h.slots_fit f hold
  · exact hfits

theorem inv_frameStored {s : State} (h : s.Inv) (i : Nat) {frame : List Byte}
    (hfits : frame.length ≤ s.params.jbBlockBytes) (harmed : s.jbArmed = true) :
    ({ s with jbSlots := s.jbSlots.set i frame } : State).Inv :=
  { h with
    slots_length := List.length_set.trans h.slots_length
    slots_fit := slots_fit_set h i hfits
    disarmed := whenDisarmed_of_armed harmed }

theorem inv_firstFrameStored {s : State} (h : s.Inv) (i : Nat) {seq : Nat} {frame : List Byte}
    (hfits : frame.length ≤ s.params.jbBlockBytes) (hseq : seq < s.params.jbSeqMod) :
    ({ s with jbSlots := s.jbSlots.set i frame, jbSeq0 := seq, jbArmed := true, jbElapsed := 0 } : State).Inv :=
  { h with
    slots_length := List.length_set.trans h.slots_length
    slots_fit := slots_fit_set h i hfits
    seq0_lt := hseq
    elapsed_le := Nat.zero_le _
    disarmed := by simp }

/-- The head counter moves only from below its maximum, and only in an armed buffer (R231, R234). -/
theorem inv_frameMissed {s : State} (h : s.Inv) (harmed : s.jbArmed = true) (hmax : s.jbH ≠ jbCounterMax) :
    ({ s with jbH := s.jbH + 1 } : State).Inv :=
  { h with
    head_le := Nat.lt_of_le_of_ne h.head_le hmax
    disarmed := whenDisarmed_of_armed harmed }

theorem inv_frameRepeated {s : State} (h : s.Inv) (harmed : s.jbArmed = true) (hmax : s.jbH ≠ jbCounterMax)
    (hlimit : s.jbRepeats < s.params.jbRepeatLimit) :
    ({ s with jbH := s.jbH + 1, jbRepeats := s.jbRepeats + 1 } : State).Inv :=
  { inv_frameMissed h harmed hmax with
    repeats_le := hlimit
    disarmed := whenDisarmed_of_armed harmed }

theorem inv_frameDelivered {s : State} (h : s.Inv) {i : Nat} (hheld : jbSlot s i ≠ []) (harmed : s.jbArmed = true)
    (hmax : s.jbH ≠ jbCounterMax) :
    ({ s with
        jbH := s.jbH + 1
        jbLast := jbSlot s i
        jbLastValid := true
        jbRepeats := 0
        jbSlots := s.jbSlots.set i [] } : State).Inv :=
  { inv_frameMissed h harmed hmax with
    slots_length := List.length_set.trans h.slots_length
    slots_fit := slots_fit_set h i (Nat.zero_le _)
    last_fits := jbSlot_length_le h i
    last_nonempty := fun _ => hheld
    repeats_le := Nat.zero_le _
    disarmed := whenDisarmed_of_armed harmed }

theorem inv_clockAdvanced {s : State} (h : s.Inv) (ms : Nat) (harmed : s.jbArmed = true) :
    ({ s with jbElapsed := min (s.jbElapsed + ms) jbCounterMax } : State).Inv :=
  { h with
    elapsed_le := Nat.min_le_right _ _
    disarmed := whenDisarmed_of_armed harmed }

/-! ### Commands -/

theorem UnitUpdate.inv {s u : State} (hu : UnitUpdate s u) (h : s.Inv) : u.Inv := by
  cases hu with
  | unchanged => exact h
  | allCleared => exact inv_clearDecoder (inv_clearJitter (inv_clearQueue h))
  | queueCleared => exact inv_clearQueue h
  | recordPushed len hlen hroom => exact inv_recordPushed h hlen hroom
  | recordPopped n rest hq => exact inv_recordPopped h hq
  | decoderStarted => exact inv_started h
  | decoderStepped s0 s1 _ _ hstarted hroom =>
    exact inv_convStepState h hstarted (Nat.lt_of_le_of_ne h.dp_le hroom) s0 s1
  | decisionsRead n _ _ => exact inv_decisionsRead h n
  | jitterReset => exact inv_clearJitter h
  | frameStored i frame hfits harmed => exact inv_frameStored h i hfits harmed
  | firstFrameStored i seq frame hfits hseq => exact inv_firstFrameStored h i hfits hseq
  | frameDelivered i hheld harmed hmax => exact inv_frameDelivered h hheld harmed hmax
  | frameRepeated harmed hmax hlimit => exact inv_frameRepeated h harmed hmax hlimit
  | frameMissed harmed hmax => exact inv_frameMissed h harmed hmax
  | clockAdvanced ms harmed => exact inv_clockAdvanced h ms harmed

theorem CommandEffect.inv {s t : State} (ht : CommandEffect s t) (h : s.Inv) : t.Inv := by
  cases ht with
  | faults e he => exact inv_raiseFault h he
  | reports r a hr hu => exact inv_setResult (hu.inv h) hr a
  | outputs r a d hr hd hu => exact inv_setResult (inv_out (hu.inv h) (hd h)) hr a

/-! ### The host side -/

/-- The reset state of a legal parameter set meets the invariant (R330, R331). -/
theorem inv_init {p : Params} (hp : p.legal = true) : (State.init p).Inv where
  params_legal := hp
  ibuf_wf := rfl
  ibuf_inBuffer := rfl
  obuf_wf := rfl
  obuf_inBuffer := rfl
  olen_le := Nat.zero_le _
  obuf_tail := fun i _ => by simp [State.init, Memory.bit, Memory.unlisted]
  queue_whole := rfl
  queue_fits := Nat.zero_le _
  slots_length := List.length_replicate
  slots_fit := fun f hf => by simp [List.eq_of_mem_replicate hf]
  head_le := Nat.zero_le _
  seq0_lt := by
    obtain ⟨hslots, hmod, -⟩ := legal_bounds hp
    exact hslots.trans hmod
  elapsed_le := Nat.zero_le _
  last_fits := Nat.zero_le _
  last_nonempty := by simp [State.init]
  repeats_le := Nat.zero_le _
  disarmed := fun _ => ⟨rfl, rfl, rfl, rfl, fun _ => List.eq_of_mem_replicate⟩
  dp_le := Nat.zero_le _
  not_started := fun _ => rfl
  metrics_reset := fun _ i hi => by simp [State.init, Vector.getD, hi]
  fault_code := by simp [State.init]
  faulted_result := by simp [State.init]

theorem inv_hardwareReset {s : State} (h : s.Inv) : (hardwareReset s).Inv := { inv_init h.params_legal with }

/-- A byte written inside IBUF keeps the invariant (R28, R53). -/
theorem inv_inputWritten {s : State} (h : s.Inv) {a : Nat} (ha : a < 256) (v : Byte) :
    ({ s with ibuf := s.ibuf.write a v } : State).Inv :=
  { h with
    ibuf_wf := Memory.write_wf h.ibuf_wf a v
    ibuf_inBuffer := Memory.write_inBuffer h.ibuf_inBuffer ha v }

theorem inv_reply {s : State} (h : s.Inv) (v : Word) : (reply v s).Inv := { h with }

theorem inv_taken {s : State} (h : s.Inv) : (taken s).Inv := { h with }

theorem inv_cmdLast {s : State} (h : s.Inv) (w : Word) : ({ s with cmdLast := w } : State).Inv := { h with }

theorem StepEffect.inv {s t : State} (ht : StepEffect s t) (h : s.Inv) : t.Inv := by
  have htaken := inv_taken h
  cases ht with
  | idles => exact htaken
  | readAnswered v => exact inv_reply htaken v
  | readFaults => exact inv_reply (inv_busFault htaken) 0
  | runsCommand w heffect => exact heffect.inv (inv_cmdLast htaken w)
  | inputWritten a v ha => exact inv_inputWritten htaken ha v
  | writeFaults => exact inv_busFault htaken
  | resets _ => exact inv_hardwareReset htaken

/-- Settles O54: each effect that `StepEffect` lists for a step keeps the invariant. -/
theorem stepKeepsInvariant : Obligations.StepKeepsInvariant := fun _ _ h hstep => (step_effect hstep).inv h

end Sys2Proof.Machine
end

section
/-! PROOFS. What no command and no host access changes: the parameters, IBUF under every command, and the fault record once
it is set (10_state.md R26 to R28, 60_exceptions.md R307). -/

namespace Sys2Proof.Machine

open Sys2Proof.Claims

/-! ### What an update and a command leave unchanged -/

theorem UnitUpdate.params_eq {s u : State} (hu : UnitUpdate s u) : u.params = s.params := by cases hu <;> rfl

theorem UnitUpdate.ibuf_eq {s u : State} (hu : UnitUpdate s u) : u.ibuf = s.ibuf := by cases hu <;> rfl

theorem UnitUpdate.sameFaults {s u : State} (hu : UnitUpdate s u) : SameFaults s u := by cases hu <;> exact ⟨rfl, rfl⟩

theorem CommandEffect.params_eq {s t : State} (ht : CommandEffect s t) : t.params = s.params := by
  cases ht with
  | faults e _ => exact raiseFault_params e s
  | reports r a _ hu => exact hu.params_eq
  | outputs r a d _ _ hu => exact hu.params_eq

theorem CommandEffect.ibuf_eq {s t : State} (ht : CommandEffect s t) : t.ibuf = s.ibuf := by
  cases ht with
  | faults e _ => exact raiseFault_ibuf e s
  | reports r a _ hu => exact hu.ibuf_eq
  | outputs r a d _ _ hu => exact hu.ibuf_eq

/-- Only the first fault is recorded (R26). -/
theorem raiseFault_sameFaults (e : ErrCode) {s : State} (hfault : s.fault = true) : SameFaults s (raiseFault e s) := by
  simp [SameFaults, hfault]

theorem busFault_sameFaults {s : State} (hfault : s.fault = true) : SameFaults s (busFault s) := by
  simp [SameFaults, hfault]

theorem CommandEffect.sameFaults {s t : State} (ht : CommandEffect s t) (hfault : s.fault = true) :
    SameFaults s t := by
  cases ht with
  | faults e _ => exact raiseFault_sameFaults e hfault
  | reports r a _ hu => exact hu.sameFaults
  | outputs r a d _ _ hu => exact hu.sameFaults

/-! ### What a step leaves unchanged -/

theorem StepEffect.params_eq {s t : State} (ht : StepEffect s t) : t.params = s.params := by
  cases ht with
  | idles => rfl
  | readAnswered v => rfl
  | readFaults => exact busFault_params (taken s)
  | runsCommand w heffect => exact heffect.params_eq
  | inputWritten a v _ => rfl
  | writeFaults => exact busFault_params (taken s)
  | resets _ => rfl

theorem StepEffect.sameFaults {s t : State} (ht : StepEffect s t) (hreset : ¬ NextEvent s .reset)
    (hfault : s.fault = true) : SameFaults s t := by
  cases ht with
  | idles => exact ⟨rfl, rfl⟩
  | readAnswered v => exact ⟨rfl, rfl⟩
  | readFaults => exact busFault_sameFaults (s := taken s) hfault
  | runsCommand w heffect => exact heffect.sameFaults hfault
  | inputWritten a v _ => exact ⟨rfl, rfl⟩
  | writeFaults => exact busFault_sameFaults (s := taken s) hfault
  | resets hnext => exact absurd hnext hreset

/-- Settles O56: without a reset no effect of a step touches a fault record that is set. -/
theorem faultStaysUntilReset : Obligations.FaultStaysUntilReset := fun _ _ hstep hreset hfault => by
  obtain ⟨hflag, hcode⟩ := (step_effect hstep).sameFaults hreset hfault
  exact ⟨hflag.trans hfault, hcode⟩

/-- Settles O57: no effect of a step touches the parameters. -/
theorem parametersNeverChange : Obligations.ParametersNeverChange := fun _ _ hstep => (step_effect hstep).params_eq

/-- Settles O60: no effect of a command touches IBUF. -/
theorem commandsNeverWriteInput : Obligations.CommandsNeverWriteInput := fun _ _ _ hexec => (exec_effect hexec).ibuf_eq

end Sys2Proof.Machine
end

section
/-! PROOFS. R33's bound on the path metrics, over one CONV_STEP and over every step of the machine (10_state.md R32, R33;
45_convolutional.md R203 to R205, R207). -/

namespace Sys2Proof.Machine

open Sys2Proof.Claims

/-! ### The trellis step adds at most 2 * CONV_Q -/

/-- Every path metric is at most `b`. -/
def MetricsWithin (b : Nat) (s : State) : Prop := ∀ i < 16, (s.pm.getD i 0).toNat ≤ b

theorem MetricsWithin.mono {b c : Nat} {s : State} (h : MetricsWithin b s) (hbc : b ≤ c) : MetricsWithin c s :=
  fun i hi => (h i hi).trans hbc

theorem metricsWithin_congr {b : Nat} {s u : State} (hpm : u.pm = s.pm) (h : MetricsWithin b s) :
    MetricsWithin b u := by
  unfold MetricsWithin
  rwa [hpm]

theorem metricsWithin_of_reset {u : State} (b : Nat) (hpm : u.pm = Vector.replicate 16 0) : MetricsWithin b u := by
  intro i hi
  simp [hpm, Vector.getD, hi]

/-- Both g1 and g2 of a branch are a bit (R205). -/
theorem branchG1_le_one (i : Nat) : branchG1 i ≤ 1 := getD_of_forall (P := (· ≤ 1)) (by decide) (by decide) i

theorem branchG2_le_one (i : Nat) : branchG2 i ≤ 1 := getD_of_forall (P := (· ≤ 1)) (by decide) (by decide) i

/-- A received symbol is at most CONV_Q away from the amplitude of a code bit (R205). -/
theorem absDiff_amplitude_le {q g s : Nat} (hg : g ≤ 1) (hs : s ≤ q) : absDiff (q * g) s ≤ q := by
  have hqg : q * g ≤ q * 1 := Nat.mul_le_mul_left q hg
  unfold absDiff
  omega

theorem branchCost_le {q s0 s1 : Nat} (i x : Nat) (h0 : s0 ≤ q) (h1 : s1 ≤ q) : branchCost q i x s0 s1 ≤ 2 * q := by
  have hg1 := absDiff_amplitude_le (branchG1_le_one i) h0
  have hg2 := absDiff_amplitude_le (branchG2_le_one i) h1
  unfold branchCost branchMetric
  split <;> omega

/-- The survivor's metric is at most 2 * CONV_Q above the largest old one (R205). -/
theorem acsMetric_le {s : State} {b s0 s1 t : Nat} (hb : MetricsWithin b s) (h0 : s0 ≤ s.params.convQ)
    (h1 : s1 ≤ s.params.convQ) (ht : t < 16) : acsMetric s.pm s.params.convQ s0 s1 t ≤ b + 2 * s.params.convQ := by
  rw [acsMetric_eq_min]
  calc min (acsLow s.pm s.params.convQ s0 s1 t) (acsHigh s.pm s.params.convQ s0 s1 t)
      ≤ acsLow s.pm s.params.convQ s0 s1 t := Nat.min_le_left _ _
    _ ≤ b + 2 * s.params.convQ := Nat.add_le_add (hb _ (by omega)) (branchCost_le _ _ h0 h1)

/-- While the sums fit sixteen bits, a trellis step stores R205's metrics and no free value (R32, R33). -/
theorem convStepState_metrics {s : State} {b s0 s1 : Nat} (hb : MetricsWithin b s) (h0 : s0 ≤ s.params.convQ)
    (h1 : s1 ≤ s.params.convQ) (hfits : b + 2 * s.params.convQ < 65536) :
    (convStepState s0 s1 s).freeDraws = s.freeDraws ∧
      MetricsWithin (b + 2 * s.params.convQ) (convStepState s0 s1 s) := by
  have hsum : ∀ t < 16, acsMetric s.pm s.params.convQ s0 s1 t ≤ b + 2 * s.params.convQ :=
    fun t ht => acsMetric_le hb h0 h1 ht
  constructor
  · have hno : acsOverflows s.pm s.params.convQ s0 s1 = false := by
      simp only [acsOverflows, List.any_eq_false, List.mem_range, decide_eq_true_eq, not_le]
      exact fun t ht => (hsum t ht).trans_lt hfits
    simp [hno]
  · intro t ht
    rw [convStepState_pm, acsNew_toNat _ _ _ _ ht ((hsum t ht).trans_lt hfits)]
    exact hsum t ht

/-- R33's bound after up to 180 trellis steps, for a CONV_Q in its range (R6). -/
theorem metricBound_le {q k : Nat} (hq : q ≤ 127) (hk : k < 180) : 2 * q * (k + 1) ≤ 45720 :=
  calc 2 * q * (k + 1) ≤ 2 * 127 * 180 := Nat.mul_le_mul (by omega) hk
    _ = 45720 := rfl

/-- The step's statement of R33: one more trellis step moves the bound from `k` to `k + 1`. -/
theorem convStepState_metricBound {s : State} {k s0 s1 : Nat} (hq : s.params.convQ ≤ 127) (hk : k < 180)
    (hb : MetricsWithin (2 * s.params.convQ * k) s) (h0 : s0 ≤ s.params.convQ) (h1 : s1 ≤ s.params.convQ) :
    (convStepState s0 s1 s).freeDraws = s.freeDraws ∧
      MetricsWithin (2 * s.params.convQ * (k + 1)) (convStepState s0 s1 s) := by
  have hlimit := metricBound_le hq hk
  rw [Nat.mul_succ] at hlimit ⊢
  exact convStepState_metrics hb h0 h1 (by omega)

/-- CONV_STEP past its three checks (R204). -/
theorem execConvStep_of_checks {s : State} {s0 s1 : BitVec 8} (h0 : s0.toNat ≤ s.params.convQ)
    (h1 : s1.toNat ≤ s.params.convQ) (hstarted : s.convStarted = true) (hroom : s.convDp < 180) :
    execConvStep s0 s1 s = .next (setResult .ok 0 (convStepState s0.toNat s1.toNat s)) := by
  have hgood : ¬ convStepBadOperand s.params s0 s1 = true := by
    rw [convStepBadOperand_iff]
    omega
  unfold execConvStep
  rw [if_neg hgood, if_neg (by simp [hstarted]), if_neg hroom.ne]

/-- Settles O43: the decisions stored count the trellis steps. -/
theorem metricBoundKeptByStep : Obligations.MetricBoundKeptByStep :=
  fun _ _ _ hq h0 h1 hstarted hroom hb =>
    ⟨_, execConvStep_of_checks h0 h1 hstarted hroom, convStepState_metricBound hq hroom hb h0 h1⟩

/-! ### Every step of the machine -/

/-- No free value was drawn, and the metrics are as they were or all 0 (R101, R203, R207, R330). -/
def MetricsKept (s t : State) : Prop := t.freeDraws = s.freeDraws ∧ (t.pm = s.pm ∨ t.pm = Vector.replicate 16 0)

theorem MetricsKept.within {s t : State} (h : MetricsKept s t) {b : Nat} (hb : MetricsWithin b s) :
    MetricsWithin b t := by
  obtain ⟨-, hpm | hpm⟩ := h
  · exact metricsWithin_congr hpm hb
  · exact metricsWithin_of_reset b hpm

/-- The state `t` has the decoder of `s` after one more trellis step (R204). -/
def TrellisStepped (s t : State) : Prop :=
  ∃ s0 ≤ s.params.convQ, ∃ s1 ≤ s.params.convQ, t.convDp = s.convDp + 1 ∧ t.pm = (convStepState s0 s1 s).pm ∧
    t.freeDraws = (convStepState s0 s1 s).freeDraws

theorem UnitUpdate.metrics_cases {s u : State} (hu : UnitUpdate s u) : MetricsKept s u ∨ TrellisStepped s u := by
  cases hu with
  | decoderStepped s0 s1 h0 h1 _ _ => exact .inr ⟨s0, h0, s1, h1, rfl, rfl, rfl⟩
  | allCleared => exact .inl ⟨rfl, .inr rfl⟩
  | decoderStarted => exact .inl ⟨rfl, .inr rfl⟩
  | _ => exact .inl ⟨rfl, .inl rfl⟩

theorem CommandEffect.metrics_cases {s t : State} (ht : CommandEffect s t) : MetricsKept s t ∨ TrellisStepped s t := by
  cases ht with
  | faults e _ => exact .inl ⟨raiseFault_freeDraws e s, .inl (raiseFault_pm e s)⟩
  | reports r a _ hu => exact hu.metrics_cases
  | outputs r a d _ _ hu => exact hu.metrics_cases

theorem StepEffect.metrics_cases {s t : State} (ht : StepEffect s t) : MetricsKept s t ∨ TrellisStepped s t := by
  cases ht with
  | runsCommand w heffect => exact heffect.metrics_cases
  | idles => exact .inl ⟨rfl, .inl rfl⟩
  | readAnswered v => exact .inl ⟨rfl, .inl rfl⟩
  | inputWritten a v _ => exact .inl ⟨rfl, .inl rfl⟩
  | readFaults => exact .inl ⟨busFault_freeDraws (taken s), .inl (busFault_pm (taken s))⟩
  | writeFaults => exact .inl ⟨busFault_freeDraws (taken s), .inl (busFault_pm (taken s))⟩
  | resets _ => exact .inl ⟨rfl, .inr rfl⟩

/-- Settles O44: a step keeps the metrics, clears them, or is one trellis step, which alone adds to CONV_DP. -/
theorem metricBoundKeptByEveryStep : Obligations.MetricBoundKeptByEveryStep := by
  intro s t k hlegal hk hb hstep
  obtain ⟨-, -, -, -, -, -, hq, -⟩ := legal_bounds hlegal
  have heffect := step_effect hstep
  rw [heffect.params_eq]
  refine ⟨metricBound_le hq hk, ?_⟩
  rcases heffect.metrics_cases with hkept | ⟨s0, h0, s1, h1, hdp, hpm, hdraws⟩
  · have hbt : MetricsWithin (2 * s.params.convQ * k) t := hkept.within hb
    exact ⟨hkept.1, fun _ => hbt.mono (Nat.mul_le_mul_left _ (Nat.le_succ k)), fun _ => hbt⟩
  · obtain ⟨hfree, hbt⟩ := convStepState_metricBound hq hk hb h0 h1
    exact ⟨hdraws.trans hfree, fun _ => metricsWithin_congr hpm hbt, fun hne => absurd hdp hne⟩

end Sys2Proof.Machine
end

section
/-! PROOFS. The register map and the CMD register (10_state.md R22, R23, R25, R27; 20_memory.md R58, R59;
60_exceptions.md R301). -/

namespace Sys2Proof.Machine

open Sys2Proof.Claims

/-! ### The CMD register -/

/-- A 32-bit write of CMD runs the word written (R22, R58). -/
theorem step_of_commandWrite {s : State} {w : Word} (h : NextEvent s (.write s.params.blockBase 32 w)) :
    step s = runCommand w (taken s) := by
  have haddr : toBlockAddr s.params s.params.blockBase = some 0 :=
    toBlockAddr_add s.params (a := 0) (by decide)
  rw [step_of_nextEvent h]
  simp [hostEvent, hostWrite, taken, haddr]

theorem withFetchWord_toNat (s : State) (w : Word) : s.withFetchWord 32 w.toNat = pushCommand w s := by
  rw [State.withFetchWord, Nat.mod_eq_of_lt w.isLt, BitVec.ofNat_toNat, BitVec.setWidth_eq]

/-- Settles O4: both the host's write and the word pushed as one are the next write of CMD. -/
theorem stepRunsDecodedCommand : Obligations.StepRunsDecodedCommand := by
  intro s w i hdecode
  refine ⟨fun hnext => ?_, ?_⟩
  · rw [step_of_commandWrite hnext, runCommand_of_decode hdecode]
  · have hpushed : step (pushCommand w s) = runCommand w s := step_of_commandWrite (s := pushCommand w s) rfl
    rw [withFetchWord_toNat, hpushed, runCommand_of_decode hdecode]

/-- Settles O13: both lists evaluate to the codes of R25 and R301. -/
theorem resultAndFaultCodes : Obligations.ResultAndFaultCodes := ⟨rfl, rfl⟩

/-! ### Reading a register -/

/-- A 32-bit read at a register's address returns the register's word and changes nothing else (R56, R59). -/
theorem registerReads_of_registerAt {s : State} {a v : Nat} (ha : a < 4096)
    (h : registerAt s a = some (BitVec.ofNat 32 v)) : RegisterReads s a v := by
  intro hnext
  have haddr : toBlockAddr (taken s).params (s.params.blockBase + a) = some a := toBlockAddr_add s.params ha
  have hreg : busRead (taken s) a 32 = some (BitVec.ofNat 32 v) := h
  show step s = _
  rw [step_of_nextEvent hnext, hostEvent]
  simp only [haddr, hostRead, hreg]
  rfl

/-! ### The words of the registers -/

/-- The upper of two fields weighs `2 ^ n` times its value, `n` the width of the lower. -/
theorem toNat_append_eq_add {m n : Nat} (x : BitVec m) (y : BitVec n) :
    (x ++ y).toNat = x.toNat * 2 ^ n + y.toNat := by
  rw [BitVec.toNat_append, ← Nat.shiftLeft_add_eq_or_of_lt y.isLt, Nat.shiftLeft_eq]

/-- Two fields put side by side are the word of the number they weigh, whatever the upper one is made of. -/
theorem append_eq_ofNat {m n v : Nat} {x : BitVec m} {y : BitVec n} (h : x.toNat * 2 ^ n + y.toNat = v) :
    x ++ y = BitVec.ofNat (m + n) v := by
  rw [← h, ← toNat_append_eq_add, BitVec.ofNat_toNat, BitVec.setWidth_eq]

theorem bit_eq_toNat (b : Bool) : bit b = b.toNat := by cases b <;> rfl

/-- There is at most one record for each byte of the queue (R30, R110). -/
theorem countRecords_le_length (skip : Nat) (xs : List Byte) : countRecords skip xs ≤ xs.length := by
  induction xs generalizing skip with
  | nil => simp [countRecords]
  | cons x xs ih =>
    cases skip with
    | zero =>
      rw [countRecords, Nat.add_comm, List.length_cons]
      exact Nat.succ_le_succ (ih x.toNat)
    | succ skip => exact (ih skip).trans (Nat.le_succ _)

theorem regResult_eq (s : State) : regResult s = BitVec.ofNat 32 (wordOf [(0, s.result.toByte.toNat),
    (8, bit s.fault), (16, s.faultCode.toByte.toNat), (24, s.aux.toNat)]) := by
  have hfault := Bool.toNat_le s.fault
  refine append_eq_ofNat (m := 8 + 8 + 7 + 1) (n := 8) ?_
  simp only [toNat_append_eq_add, BitVec.toNat_ofNat, wordOf, bit_eq_toNat, BitVec.toNat_ofBool]
  omega

theorem regOlen_eq {s : State} (h : s.Inv) : regOlen s = BitVec.ofNat 32 s.olen := by
  have holen := h.olen_le
  refine append_eq_ofNat (m := 16) (n := 16) ?_
  simp only [BitVec.toNat_ofNat]
  omega

theorem regQstat_eq {s : State} (h : s.Inv) :
    regQstat s = BitVec.ofNat 32 (wordOf [(0, s.qdata.length), (16, s.qRecords)]) := by
  obtain ⟨-, -, -, -, -, -, -, hcap, -⟩ := legal_bounds h.params_legal
  have hused : s.qdata.length ≤ s.params.qCap := h.queue_fits
  have hrecords : s.qRecords ≤ s.qdata.length := countRecords_le_length 0 s.qdata
  refine append_eq_ofNat (m := 16) (n := 16) ?_
  simp only [BitVec.toNat_ofNat, wordOf, State.qUsed]
  omega

theorem regJbstat_eq {s : State} (h : s.Inv) : regJbstat s = BitVec.ofNat 32 (wordOf [(0, bit s.jbArmed),
    (1, bit (s.jbArmed && decide (s.params.jbDelayMs ≤ s.jbElapsed))), (2, bit s.jbLastValid), (8, s.jbRepeats),
    (16, (s.jbSeq0 + s.jbH) % s.params.jbSeqMod)]) := by
  obtain ⟨hslots, hmod, hmodMax, -, -, -, -, -, hlimit⟩ := legal_bounds h.params_legal
  have hrepeats := h.repeats_le
  have hhead : s.jbHeadSeq < s.params.jbSeqMod := Nat.mod_lt _ (by omega)
  have harmed := Bool.toNat_le s.jbArmed
  have hrunning := Bool.toNat_le s.jbRunning
  have hvalid := Bool.toNat_le s.jbLastValid
  change regJbstat s = BitVec.ofNat 32 (wordOf [(0, bit s.jbArmed), (1, bit s.jbRunning), (2, bit s.jbLastValid),
    (8, s.jbRepeats), (16, s.jbHeadSeq)])
  refine append_eq_ofNat (m := 16 + 8 + 5 + 1 + 1) (n := 1) ?_
  simp only [toNat_append_eq_add, BitVec.toNat_ofNat, wordOf, bit_eq_toNat, BitVec.toNat_ofBool]
  omega

theorem regConvstat_eq {s : State} (h : s.Inv) :
    regConvstat s = BitVec.ofNat 32 (wordOf [(0, bit s.convStarted), (8, s.convDp)]) := by
  have hdp := h.dp_le
  have hstarted := Bool.toNat_le s.convStarted
  refine append_eq_ofNat (m := 16 + 8 + 7) (n := 1) ?_
  simp only [toNat_append_eq_add, BitVec.toNat_ofNat, wordOf, bit_eq_toNat, BitVec.toNat_ofBool]
  omega

theorem regCfg0_eq {s : State} (h : s.params.legal = true) : regCfg0 s = BitVec.ofNat 32
    (wordOf [(0, s.params.qCap), (16, s.params.jbSlots), (24, s.params.jbBlockBytes)]) := by
  rw [Params.legal_iff] at h
  refine append_eq_ofNat (m := 8 + 8) (n := 16) ?_
  simp only [toNat_append_eq_add, BitVec.toNat_ofNat, wordOf]
  omega

theorem regCfg1_eq {s : State} (h : s.params.legal = true) :
    regCfg1 s = BitVec.ofNat 32 (wordOf [(0, s.params.jbBlockMs), (16, s.params.jbDelayMs)]) := by
  rw [Params.legal_iff] at h
  refine append_eq_ofNat (m := 16) (n := 16) ?_
  simp only [BitVec.toNat_ofNat, wordOf]
  omega

theorem regCfg2_eq {s : State} (h : s.params.legal = true) : regCfg2 s = BitVec.ofNat 32
    (wordOf [(0, s.params.jbSeqMod), (16, s.params.jbRepeatLimit), (24, s.params.convQ)]) := by
  rw [Params.legal_iff] at h
  refine append_eq_ofNat (m := 8 + 8) (n := 16) ?_
  simp only [toNat_append_eq_add, BitVec.toNat_ofNat, wordOf]
  omega

theorem regCfg3_eq (s : State) : regCfg3 s = BitVec.ofNat 32
    (wordOf [(0, 5), (8, bit (decide (s.params.bptcOrder = .rowsThenColumns)))]) := by
  unfold regCfg3
  cases s.params.bptcOrder <;> rfl

/-- Settles O14: each register's word, then the read that returns it. -/
theorem registerMapReads : Obligations.RegisterMapReads := by
  intro s h
  refine ⟨?cmd, ?result, ?olen, ?qstat, ?jbstat, ?jbtime, ?jbhead, ?convstat, ?cfg0, ?cfg1, ?cfg2, ?cfg3⟩ <;>
    refine registerReads_of_registerAt (by decide) ?_ <;> refine congrArg some ?_
  case cmd => simp [regCmd]
  case result => exact regResult_eq s
  case olen => exact regOlen_eq h
  case qstat => exact regQstat_eq h
  case jbstat => exact regJbstat_eq h
  case jbtime => rfl
  case jbhead => rfl
  case convstat => exact regConvstat_eq h
  case cfg0 => exact regCfg0_eq h.params_legal
  case cfg1 => exact regCfg1_eq h.params_legal
  case cfg2 => exact regCfg2_eq h.params_legal
  case cfg3 => exact regCfg3_eq s

end Sys2Proof.Machine
end

section
/-! PROOFS. The byte windows of IBUF and OBUF, and the writes the map does not allow (20_memory.md R53, R54;
60_exceptions.md R303). -/

namespace Sys2Proof.Machine

open Sys2Proof.Claims

/-! ### Accesses inside the block's window -/

/-- A step whose event is a read in the window is that read of the block (R50, R60). -/
theorem stepsTo_of_windowRead {s : State} {a width : Nat} (ha : a < 4096)
    (h : NextEvent s (.read (s.params.blockBase + a) width)) : StepsTo s (hostRead a width (taken s)) := by
  have haddr : toBlockAddr (taken s).params (s.params.blockBase + a) = some a := toBlockAddr_add s.params ha
  rw [StepsTo, step_of_nextEvent h, hostEvent]
  simp only [haddr]

/-- A step whose event is a write in the window is that write of the block (R50, R60). -/
theorem step_of_windowWrite {s : State} {a width : Nat} {v : Word} (ha : a < 4096)
    (h : NextEvent s (.write (s.params.blockBase + a) width v)) : step s = hostWrite a width v (taken s) := by
  have haddr : toBlockAddr (taken s).params (s.params.blockBase + a) = some a := toBlockAddr_add s.params ha
  rw [step_of_nextEvent h, hostEvent]
  simp only [haddr]

/-- A read the map answers returns the word and records no fault (R59). -/
theorem hostRead_of_busRead {s : State} {a width : Nat} {v : Word} (h : busRead s a width = some v) :
    hostRead a width s = reply v s := by
  simp only [hostRead, h]

/-- A read that the map answers, as a step: the word returned, and the event taken (R50, R59). -/
theorem stepsTo_of_busRead {s : State} {a width : Nat} {v : Word} (ha : a < 4096)
    (hread : busRead (taken s) a width = some v) (h : NextEvent s (.read (s.params.blockBase + a) width)) :
    StepsTo s { taken s with replies := s.replies ++ [v] } := by
  have hstep := stepsTo_of_windowRead ha h
  rwa [hostRead_of_busRead hread] at hstep

/-! ### Byte reads -/

/-- A byte zero-extended is the word of its value (R53, R54). -/
theorem zeroExtended_eq_ofNat (b : Byte) : (0#24 ++ b : Word) = BitVec.ofNat 32 b.toNat :=
  append_eq_ofNat (m := 24) (by simp)

theorem inObuf_iff (a : Nat) : inObuf a = true ↔ 0x200 ≤ a ∧ a < 0x300 := by simp [inObuf]

theorem busRead_ibuf (s : State) {a : Nat} (ha : a < 256) :
    busRead s (0x100 + a) 8 = some (BitVec.ofNat 32 (s.ibuf.read a).toNat) := by
  have hin : inIbuf (0x100 + a) = true := (inIbuf_iff _).mpr (by omega)
  rw [busRead, if_pos ⟨rfl, hin⟩, Nat.add_sub_cancel_left, zeroExtended_eq_ofNat]

theorem busRead_obuf (s : State) {a : Nat} (ha : a < 256) :
    busRead s (0x200 + a) 8 = some (BitVec.ofNat 32 (s.obuf.read a).toNat) := by
  have hout : ¬ inIbuf (0x200 + a) = true := by rw [inIbuf_iff]; omega
  have hin : inObuf (0x200 + a) = true := (inObuf_iff _).mpr (by omega)
  rw [busRead, if_neg (fun h => hout h.2), if_pos ⟨rfl, hin⟩, Nat.add_sub_cancel_left, zeroExtended_eq_ofNat]

/-! ### Writes -/

theorem hostWrite_ibuf (s : State) (v : Word) {a : Nat} (ha : a < 256) :
    hostWrite (0x100 + a) 8 v s = .next { s with ibuf := s.ibuf.write a (v.setWidth 8) } := by
  have hin : inIbuf (0x100 + a) = true := (inIbuf_iff _).mpr (by omega)
  rw [hostWrite, if_neg (by omega), if_pos ⟨rfl, hin⟩, Nat.add_sub_cancel_left]

/-- A write the map does not allow is a bus fault, whatever its width (R54, R56, R303). -/
theorem hostWrite_of_not_legalWrite {a width : Nat} (h : ¬ LegalWrite a width) (v : Word) (s : State) :
    hostWrite a width v s = .next (busFault s) := by
  rw [LegalWrite, ← inIbuf_iff, not_or] at h
  obtain ⟨hcmd, hbyte⟩ := h
  rw [hostWrite, if_neg hcmd, if_neg hbyte]

/-- Everything that a bus fault does (R303). -/
theorem busFault_busFaulted (s : State) : BusFaulted s (busFault s) := by
  simp [BusFaulted, SameInput, SameOutput, SameUnits, SameQueue, SameJitter, SameDecoder]

/-- A write that the map does not allow, as a step (R50, R303). -/
theorem busFaulted_of_not_legalWrite {s : State} {a width : Nat} {v : Word} (ha : a < 4096)
    (hbad : ¬ LegalWrite a width) (h : NextEvent s (.write (s.params.blockBase + a) width v)) :
    ∃ t, StepsTo s t ∧ BusFaulted (taken s) t ∧ t.replies = s.replies :=
  ⟨busFault (taken s), (step_of_windowWrite ha h).trans (hostWrite_of_not_legalWrite hbad v _),
    busFault_busFaulted _, busFault_replies _⟩

/-! ### The buffers' windows -/

/-- Settles O15: the write is one `Memory.write`, whose reads the invariant's canonical form of IBUF determines. -/
theorem ibufByteAccess : Obligations.IbufByteAccess := by
  intro s a hinv ha
  have hwindow : 0x100 + a < 4096 := by omega
  rw [Nat.add_assoc]
  refine ⟨fun v hwrite => ?_, stepsTo_of_busRead hwindow (busRead_ibuf (taken s) ha)⟩
  have hstep := step_of_windowWrite hwindow hwrite
  rw [hostWrite_ibuf (taken s) v ha] at hstep
  refine ⟨_, hstep, fun b => Memory.read_write hinv.ibuf_wf a b _, ?_⟩
  simp [taken, SameHost, SameOutput, SameFaults, SameUnits, SameQueue, SameJitter, SameDecoder]

/-- Settles O16: no write in the OBUF window is one the map allows. -/
theorem obufByteAccess : Obligations.ObufByteAccess := by
  intro s a ha
  have hwindow : 0x200 + a < 4096 := by omega
  rw [Nat.add_assoc]
  refine ⟨stepsTo_of_busRead hwindow (busRead_obuf (taken s) ha), fun width v => ?_⟩
  have hbad : ¬ LegalWrite (0x200 + a) width := by
    unfold LegalWrite
    omega
  exact busFaulted_of_not_legalWrite hwindow hbad

end Sys2Proof.Machine
end

section
/-! PROOFS. The decoder and the encoder (30_encoding.md R70 to R76): a command word as its three fields, the decoder's
answer for the opcodes of each format, and the fault of a word that does not decode. -/

namespace Sys2Proof.Machine

open Sys2Proof.Claims
open Sys2Proof.Laws.EncodeFields (opcode len8 imm16 Statement)

/-! ### The fields of a word -/

/-- A command word is its three fields (R70). -/
theorem append_fields (w : Word) : cwImm16 w ++ cwLen8 w ++ cwOp w = w := by
  have hupper : cwImm16 w ++ cwLen8 w = w.extractLsb' 8 24 :=
    BitVec.extractLsb'_append_extractLsb'_eq_extractLsb' rfl
  have hall : w.extractLsb' 8 24 ++ cwOp w = w.extractLsb' 0 32 :=
    BitVec.extractLsb'_append_extractLsb'_eq_extractLsb' rfl
  rw [hupper, hall, BitVec.extractLsb'_eq_self]

/-- IMM16 is the symbol pair, S1 above S0 (R70). -/
theorem cwImm16_eq_append (w : Word) : cwImm16 w = cwS1 w ++ cwS0 w := by
  have hpair : w.extractLsb' 24 8 ++ w.extractLsb' 16 8 = w.extractLsb' 16 16 :=
    BitVec.extractLsb'_append_extractLsb'_eq_extractLsb' rfl
  exact hpair.symm

/-- The symbols of a word whose IMM16 is made of them. -/
theorem symbols_of_cwImm16 {w : Word} {s0 s1 : BitVec 8} (h : cwImm16 w = s1 ++ s0) : cwS0 w = s0 ∧ cwS1 w = s1 := by
  have hS0 := congrArg (BitVec.extractLsb' 0 8) h
  have hS1 := congrArg (BitVec.extractLsb' 8 8) h
  rw [cwImm16_eq_append, BitVec.extractLsb'_append_eq_right, BitVec.extractLsb'_append_eq_right] at hS0
  rw [cwImm16_eq_append, BitVec.extractLsb'_append_eq_left, BitVec.extractLsb'_append_eq_left] at hS1
  exact ⟨hS0, hS1⟩

/-- The word of every command has the command's fields (R71, R73). -/
theorem encode_fields (i : Instr) : Statement i := by
  cases i with
  | qPush len => exact Laws.EncodeFields.qPush len
  | convEnc n => exact Laws.EncodeFields.convEnc n
  | convStep s0 s1 => exact Laws.EncodeFields.convStep s0 s1
  | convChainback n => exact Laws.EncodeFields.convChainback n
  | jbAdd len seq => exact Laws.EncodeFields.jbAdd len seq
  | jbClock ms => exact Laws.EncodeFields.jbClock ms
  | _ => exact Laws.EncodeFields.fields_F0 _

/-- A word with the fields of a command is the command's word (R71, R73). -/
theorem encode_eq_of_fields {w : Word} {i : Instr} (hop : cwOp w = opcode i) (hlen : cwLen8 w = len8 i)
    (himm : cwImm16 w = imm16 i) : encode i = w := by
  obtain ⟨hop', hlen', himm'⟩ := encode_fields i
  rw [← append_fields (encode i), ← append_fields w, hop, hlen, himm, hop', hlen', himm']

/-- A command without operands has the format F0 (R71). -/
theorem fields_of_isBare {i : Instr} (hbare : isBare i = true) : len8 i = 0 ∧ imm16 i = 0 := by
  cases i with
  | qPush | convEnc | convStep | convChainback | jbAdd | jbClock => cases hbare
  | _ => exact ⟨rfl, rfl⟩

/-! ### The decoder's answer for each opcode -/

section

variable {w : Word}

theorem decode_of_isBare {i : Instr} (hbare : isBare i = true) (hop : cwOp w = opcode i) :
    decode w = decodeF0 w i := by
  cases i with
  | qPush | convEnc | convStep | convChainback | jbAdd | jbClock => cases hbare
  | _ => rw [decode, hop]; rfl

theorem decode_qPush (hop : cwOp w = 0x10) : decode w = decodeFL w .qPush := by rw [decode, hop]; rfl

theorem decode_convEnc (hop : cwOp w = 0x40) : decode w = decodeFN w .convEnc := by rw [decode, hop]; rfl

theorem decode_convStep (hop : cwOp w = 0x42) : decode w = decodeFS w .convStep := by rw [decode, hop]; rfl

theorem decode_convChainback (hop : cwOp w = 0x43) : decode w = decodeFN w .convChainback := by
  rw [decode, hop]; rfl

theorem decode_jbAdd (hop : cwOp w = 0x51) : decode w = decodeFLS w .jbAdd := by rw [decode, hop]; rfl

theorem decode_jbClock (hop : cwOp w = 0x53) : decode w = decodeFN w .jbClock := by rw [decode, hop]; rfl

theorem decode_of_not_mem_opcodes (hop : (cwOp w).toNat ∉ opcodes) : decode w = .error .illegalOp := by
  unfold decode
  split
  case h_26 => rfl
  all_goals next hlisted => exact absurd (by rw [hlisted]; decide) hop

end

/-- Each opcode of the map is the OP of a command (R73). -/
theorem exists_opcode_of_mem_opcodes {op : BitVec 8} (h : op.toNat ∈ opcodes) : ∃ i, opcode i = op := by
  have hmap : ∀ n ∈ opcodes, ∃ i ∈ bareLines.map Prod.fst ++
      [.qPush 0, .convEnc 0, .convStep 0 0, .convChainback 0, .jbAdd 0 0, .jbClock 0], (opcode i).toNat = n := by
    decide
  obtain ⟨i, -, hi⟩ := hmap _ h
  exact ⟨i, BitVec.eq_of_toNat_eq hi⟩

/-- What the decoder can answer (R71, R73): one case for an opcode outside the map and one for each format. -/
inductive DecodeAnswer (w : Word) : Except DecodeError Instr → Prop where
  /-- OP is not in the map (R75). -/
  | illegal (hop : (cwOp w).toNat ∉ opcodes) : DecodeAnswer w (.error .illegalOp)
  /-- Format F0. -/
  | f0 (i : Instr) (hbare : isBare i = true) (hop : cwOp w = opcode i) : DecodeAnswer w (decodeF0 w i)
  /-- Format FL. -/
  | fl (hop : cwOp w = 0x10) : DecodeAnswer w (decodeFL w .qPush)
  /-- Format FN. -/
  | fn (mk : BitVec 16 → Instr) (hmk : mk ∈ [.convEnc, .convChainback, .jbClock])
      (hop : ∀ n, cwOp w = opcode (mk n)) : DecodeAnswer w (decodeFN w mk)
  /-- Format FS. -/
  | fs (hop : cwOp w = 0x42) : DecodeAnswer w (decodeFS w .convStep)
  /-- Format FLS. -/
  | fls (hop : cwOp w = 0x51) : DecodeAnswer w (decodeFLS w .jbAdd)

theorem decode_answer (w : Word) : DecodeAnswer w (decode w) := by
  by_cases hmem : (cwOp w).toNat ∈ opcodes
  · obtain ⟨i, hi⟩ := exists_opcode_of_mem_opcodes hmem
    have hop := hi.symm
    cases i with
    | qPush => rw [decode_qPush hop]; exact .fl hop
    | convEnc => rw [decode_convEnc hop]; exact .fn _ (by simp) fun _ => hop
    | convStep => rw [decode_convStep hop]; exact .fs hop
    | convChainback => rw [decode_convChainback hop]; exact .fn _ (by simp) fun _ => hop
    | jbAdd => rw [decode_jbAdd hop]; exact .fls hop
    | jbClock => rw [decode_jbClock hop]; exact .fn _ (by simp) fun _ => hop
    | _ => rw [decode_of_isBare rfl hop]; exact .f0 _ rfl hop
  · rw [decode_of_not_mem_opcodes hmem]
    exact .illegal hmem

/-! ### What each format accepts -/

section

variable {w : Word} {i : Instr}

theorem decodeF0_eq_ok_iff {j : Instr} : decodeF0 w j = .ok i ↔ (cwLen8 w = 0 ∧ cwImm16 w = 0) ∧ j = i := by
  simp [decodeF0, ite_eq_iff]

theorem decodeFL_eq_ok_iff {mk : BitVec 8 → Instr} :
    decodeFL w mk = .ok i ↔ cwImm16 w = 0 ∧ mk (cwLen8 w) = i := by
  simp [decodeFL, ite_eq_iff]

theorem decodeFN_eq_ok_iff {mk : BitVec 16 → Instr} :
    decodeFN w mk = .ok i ↔ cwLen8 w = 0 ∧ mk (cwImm16 w) = i := by
  simp [decodeFN, ite_eq_iff]

theorem decodeFS_eq_ok_iff {mk : BitVec 8 → BitVec 8 → Instr} :
    decodeFS w mk = .ok i ↔ cwLen8 w = 0 ∧ mk (cwS0 w) (cwS1 w) = i := by
  simp [decodeFS, ite_eq_iff]

theorem decodeFLS_eq_ok_iff {mk : BitVec 8 → BitVec 16 → Instr} :
    decodeFLS w mk = .ok i ↔ mk (cwLen8 w) (cwImm16 w) = i := by
  simp [decodeFLS]

theorem decodeF0_eq_error_iff {j : Instr} {e : DecodeError} :
    decodeF0 w j = .error e ↔ w.extractLsb' 8 24 ≠ 0 ∧ e = .reservedField := by
  rw [ne_eq, ← reserved_F0]
  simp [decodeF0, ite_eq_iff, eq_comm (a := e)]

theorem decodeFL_eq_error_iff {mk : BitVec 8 → Instr} {e : DecodeError} :
    decodeFL w mk = .error e ↔ cwImm16 w ≠ 0 ∧ e = .reservedField := by
  simp [decodeFL, ite_eq_iff, eq_comm (a := e)]

theorem decodeFN_eq_error_iff {mk : BitVec 16 → Instr} {e : DecodeError} :
    decodeFN w mk = .error e ↔ cwLen8 w ≠ 0 ∧ e = .reservedField := by
  simp [decodeFN, ite_eq_iff, eq_comm (a := e)]

theorem decodeFS_eq_error_iff {mk : BitVec 8 → BitVec 8 → Instr} {e : DecodeError} :
    decodeFS w mk = .error e ↔ cwLen8 w ≠ 0 ∧ e = .reservedField := by
  simp [decodeFS, ite_eq_iff, eq_comm (a := e)]

theorem decodeFLS_ne_error {mk : BitVec 8 → BitVec 16 → Instr} {e : DecodeError} :
    decodeFLS w mk ≠ .error e := nofun

end

/-! ### Decoding and encoding -/

/-- Settles O8: the command's word has its opcode, and the format of that opcode accepts the word's fields. -/
theorem decodeEncodeRoundTrip : Obligations.DecodeEncodeRoundTrip := by
  intro i
  obtain ⟨hop, hlen, himm⟩ := encode_fields i
  cases i with
  | qPush => rw [decode_qPush hop]; exact decodeFL_eq_ok_iff.mpr ⟨himm, congrArg _ hlen⟩
  | convEnc => rw [decode_convEnc hop]; exact decodeFN_eq_ok_iff.mpr ⟨hlen, congrArg _ himm⟩
  | convStep s0 s1 =>
    obtain ⟨hs0, hs1⟩ := symbols_of_cwImm16 himm
    rw [decode_convStep hop]
    exact decodeFS_eq_ok_iff.mpr ⟨hlen, congrArg₂ _ hs0 hs1⟩
  | convChainback => rw [decode_convChainback hop]; exact decodeFN_eq_ok_iff.mpr ⟨hlen, congrArg _ himm⟩
  | jbAdd => rw [decode_jbAdd hop]; exact decodeFLS_eq_ok_iff.mpr (congrArg₂ _ hlen himm)
  | jbClock => rw [decode_jbClock hop]; exact decodeFN_eq_ok_iff.mpr ⟨hlen, congrArg _ himm⟩
  | _ => rw [decode_of_isBare rfl hop]; exact decodeF0_eq_ok_iff.mpr ⟨⟨hlen, himm⟩, rfl⟩

/-- Settles O9: in each format, the fields that the word must have are those of the command it decodes to. -/
theorem encodeOfDecoded : Obligations.EncodeOfDecoded := by
  intro w i h
  have hanswer := decode_answer w
  generalize decode w = answer at h hanswer
  cases hanswer with
  | illegal => cases h
  | f0 j hbare hop =>
    obtain ⟨⟨hlen, himm⟩, rfl⟩ := decodeF0_eq_ok_iff.mp h
    obtain ⟨hlen', himm'⟩ := fields_of_isBare hbare
    exact encode_eq_of_fields hop (hlen.trans hlen'.symm) (himm.trans himm'.symm)
  | fl hop =>
    obtain ⟨himm, rfl⟩ := decodeFL_eq_ok_iff.mp h
    exact encode_eq_of_fields hop rfl himm
  | fn mk hmk hop =>
    obtain ⟨hlen, rfl⟩ := decodeFN_eq_ok_iff.mp h
    have hfields : ∀ n, len8 (mk n) = 0 ∧ imm16 (mk n) = n := by
      intro n
      fin_cases hmk <;> exact ⟨rfl, rfl⟩
    obtain ⟨hlen', himm'⟩ := hfields (cwImm16 w)
    exact encode_eq_of_fields (hop _) (hlen.trans hlen'.symm) himm'.symm
  | fs hop =>
    obtain ⟨hlen, rfl⟩ := decodeFS_eq_ok_iff.mp h
    exact encode_eq_of_fields hop hlen (cwImm16_eq_append w)
  | fls hop =>
    obtain rfl := decodeFLS_eq_ok_iff.mp h
    exact encode_eq_of_fields hop rfl rfl

/-! ### Words that do not decode -/

/-- A word fails check 1 of R74 exactly when its OP is outside the map (R75). -/
theorem decode_eq_illegalOp_iff (w : Word) : decode w = .error .illegalOp ↔ (cwOp w).toNat ∉ opcodes := by
  refine ⟨fun h => ?_, decode_of_not_mem_opcodes⟩
  have hanswer := decode_answer w
  generalize decode w = answer at h hanswer
  cases hanswer with
  | illegal hop => exact hop
  | f0 => cases (decodeF0_eq_error_iff.mp h).2
  | fl => cases (decodeFL_eq_error_iff.mp h).2
  | fn => cases (decodeFN_eq_error_iff.mp h).2
  | fs => cases (decodeFS_eq_error_iff.mp h).2
  | fls => exact absurd h decodeFLS_ne_error

/-- A nonzero reserved field is one of an opcode in the map (R74, R76). -/
theorem mem_opcodes_of_nonzeroReserved {w : Word} (h : NonzeroReserved w) : (cwOp w).toNat ∈ opcodes := by
  have hFN : ∀ n ∈ [0x40, 0x42, 0x43, 0x53], n ∈ opcodes := by decide
  rcases h with ⟨hop, -⟩ | ⟨hop, -⟩ | ⟨hop, -, -⟩
  · rw [show cwOp w = 0x10 from hop]; decide
  · exact hFN _ hop
  · exact hop

/-- The reserved fields of format F0 are CW[31:8] (R76). -/
theorem nonzeroReserved_iff_of_isBare {w : Word} {i : Instr} (hbare : isBare i = true) (hop : cwOp w = opcode i) :
    NonzeroReserved w ↔ w.extractLsb' 8 24 ≠ 0 := by
  have hop' : w.extractLsb' 0 8 = opcode i := hop
  rw [NonzeroReserved, hop']
  cases i with
  | qPush | convEnc | convStep | convChainback | jbAdd | jbClock => cases hbare
  | _ => simp [opcode, opcodes]

/-- The reserved field of format FL is CW[31:16] (R76). -/
theorem nonzeroReserved_iff_of_FL {w : Word} (hop : cwOp w = 0x10) : NonzeroReserved w ↔ cwImm16 w ≠ 0 := by
  have hop' : w.extractLsb' 0 8 = 0x10 := hop
  simp [NonzeroReserved, hop', cwImm16]

/-- The reserved field of formats FN and FS is CW[15:8] (R76). -/
theorem nonzeroReserved_iff_of_FN {w : Word} (hop : cwOp w ∈ [0x40, 0x42, 0x43, 0x53]) :
    NonzeroReserved w ↔ cwLen8 w ≠ 0 := by
  have hop' : w.extractLsb' 0 8 ∈ [0x40, 0x42, 0x43, 0x53] := hop
  simp only [List.mem_cons, List.not_mem_nil, or_false] at hop'
  rcases hop' with h | h | h | h <;> simp [NonzeroReserved, h, cwLen8]

/-- Format FLS has no reserved field (R76). -/
theorem not_nonzeroReserved_of_FLS {w : Word} (hop : cwOp w = 0x51) : ¬ NonzeroReserved w := by
  have hop' : w.extractLsb' 0 8 = 0x51 := hop
  simp [NonzeroReserved, hop']

/-- A word fails check 2 of R74 exactly when a field that its format reserves is not 0 (R76). -/
theorem decode_eq_reservedField_iff (w : Word) : decode w = .error .reservedField ↔ NonzeroReserved w := by
  have hanswer := decode_answer w
  generalize decode w = answer at hanswer
  cases hanswer with
  | illegal hop => exact ⟨nofun, fun h => absurd (mem_opcodes_of_nonzeroReserved h) hop⟩
  | f0 i hbare hop => simp [nonzeroReserved_iff_of_isBare hbare hop, decodeF0_eq_error_iff]
  | fl hop => simp [nonzeroReserved_iff_of_FL hop, decodeFL_eq_error_iff]
  | fn mk hmk hop =>
    have hlisted : cwOp w ∈ [0x40, 0x42, 0x43, 0x53] := by
      rw [hop 0]
      fin_cases hmk <;> decide
    simp [nonzeroReserved_iff_of_FN hlisted, decodeFN_eq_error_iff]
  | fs hop => simp [nonzeroReserved_iff_of_FN (w := w) (by simp [hop]), decodeFS_eq_error_iff]
  | fls hop => simp [not_nonzeroReserved_of_FLS hop, decodeFLS_ne_error]

/-- A word that does not decode raises the fault of the check that fails and does nothing else (R74, R300). -/
theorem runCommand_faultsWith {w : Word} {e : DecodeError} (h : decode w = .error e) (s : State) :
    ∃ t, runCommand w s = .next t ∧ FaultsWith (decodeErrCode e) { s with cmdLast := w } t :=
  ⟨raiseFault (decodeErrCode e) { s with cmdLast := w }, by simp [runCommand, h], raiseFault_faultsWith _ _⟩

/-- The number of illegal opcodes, as R75 gives it. -/
theorem illegalOpcodes_length : ((List.range 256).filter fun op => decide (op ∉ opcodes)).length = 231 := by
  decide +kernel

/-- Settles O10: a word with one of the counted opcodes fails check 1 whatever its other bits, and faults. -/
theorem illegalOpcodesExactly : Obligations.IllegalOpcodesExactly :=
  ⟨decode_eq_illegalOp_iff, illegalOpcodes_length, fun _ s hop =>
    runCommand_faultsWith (decode_of_not_mem_opcodes hop) s⟩

/-- Settles O11: the words that check 2 refuses, format by format, and the fault that each of them raises. -/
theorem reservedFieldsExactly : Obligations.ReservedFieldsExactly := fun w =>
  ⟨decode_eq_reservedField_iff w, fun h => runCommand_faultsWith ((decode_eq_reservedField_iff w).mpr h)⟩

/-- Settles O5: the host's write of CMD runs the word, which does not decode. -/
theorem badWordFaultsOnly : Obligations.BadWordFaultsOnly := by
  intro s w e hdecode hnext
  obtain ⟨t, hrun, hfault⟩ := runCommand_faultsWith hdecode (taken s)
  refine ⟨t, (step_of_commandWrite hnext).trans hrun, ?_⟩
  cases e <;> exact hfault

/-- Settles O7: the decoder evaluates on each word. -/
theorem decodeOfWrittenWords : Obligations.DecodeOfWrittenWords := by
  unfold Obligations.DecodeOfWrittenWords
  decide

end Sys2Proof.Machine
end

section
/-! PROOFS. The host accesses that each line of a program stands for (30_encoding.md R71, R77, R78). -/

namespace Sys2Proof.Machine

open Sys2Proof.Claims

/-! ### The words of the lines, as numbers -/

theorem operandField_of_lt {width v : Nat} (h : v < 2 ^ width) :
    operandField width v = some (BitVec.ofNat width v) := if_pos h

theorem operandField_of_not_lt {width v : Nat} (h : ¬ v < 2 ^ width) : operandField width v = none := if_neg h

theorem encodeFL_ofNat {op len : Nat} (hop : op < 2 ^ 8) (hlen : len < 2 ^ 8) :
    encodeFL (BitVec.ofNat 8 op) (BitVec.ofNat 8 len) = BitVec.ofNat 32 (len * 2 ^ 8 + op) := by
  refine append_eq_ofNat (m := 16 + 8) (n := 8) ?_
  simp only [toNat_append_eq_add, BitVec.toNat_ofNat]
  omega

theorem encodeFN_ofNat {op n : Nat} (hop : op < 2 ^ 8) (hn : n < 2 ^ 16) :
    encodeFN (BitVec.ofNat 8 op) (BitVec.ofNat 16 n) = BitVec.ofNat 32 (n * 2 ^ 16 + op) := by
  refine append_eq_ofNat (m := 16 + 8) (n := 8) ?_
  simp only [toNat_append_eq_add, BitVec.toNat_ofNat]
  omega

theorem encodeFS_ofNat {op s0 s1 : Nat} (hop : op < 2 ^ 8) (hs0 : s0 < 2 ^ 8) (hs1 : s1 < 2 ^ 8) :
    encodeFS (BitVec.ofNat 8 op) (BitVec.ofNat 8 s0) (BitVec.ofNat 8 s1) =
      BitVec.ofNat 32 (s1 * 2 ^ 24 + s0 * 2 ^ 16 + op) := by
  refine append_eq_ofNat (m := 8 + 8 + 8) (n := 8) ?_
  simp only [toNat_append_eq_add, BitVec.toNat_ofNat]
  omega

theorem encodeFLS_ofNat {op len seq : Nat} (hop : op < 2 ^ 8) (hlen : len < 2 ^ 8) (hseq : seq < 2 ^ 16) :
    encodeFLS (BitVec.ofNat 8 op) (BitVec.ofNat 8 len) (BitVec.ofNat 16 seq) =
      BitVec.ofNat 32 (seq * 2 ^ 16 + len * 2 ^ 8 + op) := by
  refine append_eq_ofNat (m := 16 + 8) (n := 8) ?_
  simp only [toNat_append_eq_add, BitVec.toNat_ofNat]
  omega

/-! ### Lines with one command -/

/-- A line with one operand is one write of the command's word, or is refused (R77). -/
theorem map_operandField_eq {width : Nat} (base : Nat) {mk : BitVec width → Instr} {word : Nat → Nat}
    (hword : ∀ {v}, v < 2 ^ width → encode (mk (BitVec.ofNat width v)) = BitVec.ofNat 32 (word v)) (v : Nat) :
    ((operandField width v).map fun b => [commandWrite base (mk b)]) =
      if v < 2 ^ width then some [cmdWrite base (word v)] else none := by
  by_cases hv : v < 2 ^ width
  · rw [operandField_of_lt hv, if_pos hv, Option.map_some, commandWrite, hword hv, cmdWrite]
  · rw [operandField_of_not_lt hv, if_neg hv, Option.map_none]

theorem lineQPush_eq (base len : Nat) :
    lineQPush base len = if len < 2 ^ 8 then some [cmdWrite base (len * 2 ^ 8 + 0x10)] else none :=
  map_operandField_eq base (mk := .qPush) (encodeFL_ofNat (op := 0x10) (by decide)) len

theorem assemble_convEnc (base n : Nat) :
    assemble base (.convEnc n) = if n < 2 ^ 16 then some [cmdWrite base (n * 2 ^ 16 + 0x40)] else none :=
  map_operandField_eq base (mk := .convEnc) (encodeFN_ofNat (op := 0x40) (by decide)) n

theorem lineConvChainback_eq (base n : Nat) :
    lineConvChainback base n = if n < 2 ^ 16 then some [cmdWrite base (n * 2 ^ 16 + 0x43)] else none :=
  map_operandField_eq base (mk := .convChainback) (encodeFN_ofNat (op := 0x43) (by decide)) n

theorem assemble_jbClock (base ms : Nat) :
    assemble base (.jbClock ms) = if ms < 2 ^ 16 then some [cmdWrite base (ms * 2 ^ 16 + 0x53)] else none :=
  map_operandField_eq base (mk := .jbClock) (encodeFN_ofNat (op := 0x53) (by decide)) ms

theorem lineJbAdd_eq (base len seq : Nat) :
    lineJbAdd base len seq =
      if len < 2 ^ 8 ∧ seq < 2 ^ 16 then some [cmdWrite base (seq * 2 ^ 16 + len * 2 ^ 8 + 0x51)] else none := by
  unfold lineJbAdd
  by_cases hlen : len < 2 ^ 8
  · by_cases hseq : seq < 2 ^ 16
    · rw [operandField_of_lt hlen, operandField_of_lt hseq, if_pos ⟨hlen, hseq⟩, cmdWrite,
        ← encodeFLS_ofNat (by decide) hlen hseq]
      rfl
    · rw [operandField_of_lt hlen, operandField_of_not_lt hseq, if_neg (not_and_of_not_right _ hseq)]
  · rw [operandField_of_not_lt hlen, if_neg (not_and_of_not_left _ hlen)]

/-- A line without operands is one write of its OP (R77). -/
theorem assemble_bare (base : Nat) {c : Instr × Nat} (h : c ∈ bareLines) :
    assemble base (.bare c.1) = some [cmdWrite base c.2] := by
  have hwords : ∀ c ∈ bareLines, isBare c.1 = true ∧ encode c.1 = BitVec.ofNat 32 c.2 := by decide
  obtain ⟨hbare, hword⟩ := hwords c h
  rw [assemble, if_pos hbare, commandWrite, hword, cmdWrite]

/-! ### Lines with several accesses -/

theorem thenEvents_ite (p q : Prop) [Decidable p] [Decidable q] (x y : List HostEvent) :
    thenEvents (if p then some x else none) (if q then some y else none) =
      if p ∧ q then some (x ++ y) else none := by
  by_cases hp : p <;> by_cases hq : q <;> simp [thenEvents, hp, hq]

theorem inputWrites_cons (base a v : Nat) (rest : List Nat) :
    inputWrites base a (v :: rest) =
      .write (base + 0x100 + a) 8 (BitVec.ofNat 32 v) :: inputWrites base (a + 1) rest := by
  simp [inputWrites, List.zipIdx_succ, Nat.add_assoc, Nat.add_comm 1]

/-- `IB` writes its first byte, if it is one, and then the others (R77). -/
theorem byteWrites_cons (base a v : Nat) (rest : List Nat) :
    byteWrites base a (v :: rest) =
      thenEvents (if v < 2 ^ 8 then some [.write (base + 0x100 + a) 8 (BitVec.ofNat 32 v)] else none)
        (byteWrites base (a + 1) rest) := by
  rw [byteWrites]
  by_cases hv : v < 2 ^ 8
  · have hbyte : (BitVec.ofNat 8 v).setWidth 32 = BitVec.ofNat 32 v := BitVec.eq_of_toNat_eq (by simp; omega)
    rw [operandField_of_lt hv, if_pos hv, ← hbyte]
    cases byteWrites base (a + 1) rest <;> rfl
  · rw [operandField_of_not_lt hv, if_neg hv]
    rfl

theorem byteWrites_eq (base a : Nat) (bytes : List Nat) :
    byteWrites base a bytes = if (∀ v ∈ bytes, v < 2 ^ 8) then some (inputWrites base a bytes) else none := by
  induction bytes generalizing a with
  | nil => simp [byteWrites, inputWrites]
  | cons v rest ih =>
    rw [byteWrites_cons, ih, thenEvents_ite, inputWrites_cons]
    simp only [List.forall_mem_cons, List.singleton_append]

/-- The writes of `n` steps on the symbols `c` (R78). -/
def stepWrites (base n : Nat) (c : List Nat) : List HostEvent :=
  (List.range n).map fun i => cmdWrite base (c.getD (2 * i + 1) 0 * 2 ^ 24 + c.getD (2 * i) 0 * 2 ^ 16 + 0x42)

theorem stepWrites_cons_cons (base n s0 s1 : Nat) (rest : List Nat) :
    stepWrites base (n + 1) (s0 :: s1 :: rest) =
      cmdWrite base (s1 * 2 ^ 24 + s0 * 2 ^ 16 + 0x42) :: stepWrites base n rest := by
  simp [stepWrites, List.range_succ_eq_map, Function.comp_def, Nat.mul_add, Nat.add_right_comm]

/-- The first pair of symbols is one CONV_STEP, if both fit their fields (R77, R78). -/
theorem convSteps_cons_cons (base s0 s1 : Nat) (rest : List Nat) :
    convSteps base (s0 :: s1 :: rest) =
      thenEvents
        (if s0 < 2 ^ 8 ∧ s1 < 2 ^ 8 then some [cmdWrite base (s1 * 2 ^ 24 + s0 * 2 ^ 16 + 0x42)] else none)
        (convSteps base rest) := by
  rw [convSteps]
  by_cases hs0 : s0 < 2 ^ 8
  · by_cases hs1 : s1 < 2 ^ 8
    · rw [operandField_of_lt hs0, operandField_of_lt hs1, if_pos ⟨hs0, hs1⟩, cmdWrite,
        ← encodeFS_ofNat (by decide) hs0 hs1]
      cases convSteps base rest <;> rfl
    · rw [operandField_of_lt hs0, operandField_of_not_lt hs1, if_neg (not_and_of_not_right _ hs1)]
      rfl
  · rw [operandField_of_not_lt hs0, if_neg (not_and_of_not_left _ hs0)]
    rfl

theorem convSteps_eq (base : Nat) {n : Nat} {c : List Nat} (hlen : c.length = 2 * n) :
    convSteps base c = if (∀ v ∈ c, v < 2 ^ 8) then some (stepWrites base n c) else none := by
  induction n generalizing c with
  | zero =>
    obtain rfl := List.eq_nil_of_length_eq_zero hlen
    rfl
  | succ n ih =>
    match c, hlen with
    | s0 :: s1 :: rest, hlen =>
      have hrest : rest.length = 2 * n := by
        simp only [List.length_cons] at hlen
        omega
      rw [convSteps_cons_cons, ih hrest, thenEvents_ite, stepWrites_cons_cons]
      simp only [List.forall_mem_cons, List.singleton_append, and_assoc]

theorem assemble_convStep (base s0 s1 : Nat) :
    assemble base (.convStep s0 s1) =
      if s0 < 2 ^ 8 ∧ s1 < 2 ^ 8 then some [cmdWrite base (s1 * 2 ^ 24 + s0 * 2 ^ 16 + 0x42)] else none := by
  rw [assemble, convSteps_cons_cons, convSteps]
  split_ifs <;> rfl

/-! ### Pseudo-instructions -/

/-- CONV_DECODE is CONV_START, a CONV_STEP for each pair of symbols, and CONV_CHAINBACK (R78). -/
theorem assemble_convDecode (base n : Nat) (c : List Nat) :
    assemble base (.convDecode n c) =
      if 1 ≤ n ∧ n ≤ 176 ∧ c.length = 2 * n + 8 ∧ (∀ v ∈ c, v < 2 ^ 8) then
        some ([cmdWrite base 0x41] ++ stepWrites base (n + 4) c ++ [cmdWrite base (n * 2 ^ 16 + 0x43)])
      else none := by
  rw [assemble]
  by_cases h : 1 ≤ n ∧ n ≤ 176 ∧ c.length = 2 * n + 8
  · obtain ⟨hpos, hmax, hlen⟩ := h
    have hn : n < 2 ^ 16 := by omega
    rw [if_pos ⟨hpos, hmax, hlen⟩, lineConvChainback_eq, convSteps_eq base (n := n + 4) (by omega), thenEvents_ite]
    by_cases hc : ∀ v ∈ c, v < 2 ^ 8
    · rw [if_pos ⟨hc, hn⟩, if_pos ⟨hpos, hmax, hlen, hc⟩, List.append_assoc]
      rfl
    · rw [if_neg (not_and_of_not_left _ hc), if_neg fun ⟨_, _, _, hall⟩ => hc hall]
      rfl
  · rw [if_neg h, if_neg fun ⟨hpos, hmax, hlen, _⟩ => h ⟨hpos, hmax, hlen⟩]

theorem assemble_framePush (base : Nat) (bytes : List Nat) :
    assemble base (.framePush bytes) =
      if (∀ v ∈ bytes, v < 2 ^ 8) ∧ bytes.length < 2 ^ 8 then
        some (inputWrites base 0 bytes ++ [cmdWrite base (bytes.length * 2 ^ 8 + 0x10)])
      else none := by
  rw [assemble, byteWrites_eq, lineQPush_eq, thenEvents_ite]

theorem assemble_frameAdd (base seq : Nat) (bytes : List Nat) :
    assemble base (.frameAdd seq bytes) =
      if (∀ v ∈ bytes, v < 2 ^ 8) ∧ bytes.length < 2 ^ 8 ∧ seq < 2 ^ 16 then
        some (inputWrites base 0 bytes ++ [cmdWrite base (seq * 2 ^ 16 + bytes.length * 2 ^ 8 + 0x51)])
      else none := by
  rw [assemble, byteWrites_eq, lineJbAdd_eq, thenEvents_ite]

/-- Settles O12, one lemma for each line; the indices of `IB`, `RD` and `RDB` are checked nowhere (entry 13). -/
theorem assemblerFollowsTheSyntax : Obligations.AssemblerFollowsTheSyntax := fun base =>
  ⟨fun _ => assemble_bare base, lineQPush_eq base, assemble_convEnc base, assemble_convStep base,
    lineConvChainback_eq base, lineJbAdd_eq base, assemble_jbClock base, byteWrites_eq base, fun _ => ⟨rfl, rfl⟩,
    assemble_convDecode base, assemble_framePush base, assemble_frameAdd base⟩

end Sys2Proof.Machine
end

section
/-! PROOFS. The system commands and what the codec commands read (40_system.md R100, R101, R103; 42_hamming.md R145). -/

namespace Sys2Proof.Machine

open Sys2Proof.Claims
open Sys2Proof.Laws.EncodeFields (opcode)

/-! ### NOP and CLR_ALL -/

/-- A command without operands has the format F0 (R71). -/
theorem isF0_of_isBare {i : Instr} (hbare : isBare i = true) : IsF0 (opcode i) i := fun cw hop => by
  rw [decode_of_isBare hbare hop]
  exact if_congr (reserved_F0 cw) rfl rfl

theorem setResult_onlyReports (r : ResultCode) (a : Byte) (s : State) : OnlyReports s (setResult r a s) := by
  simp [OnlyReports, SameHost, SameInput, SameOutput, SameFaults, SameUnits, SameQueue, SameJitter, SameDecoder]

/-- Settles O18: NOP is `setResult` alone. -/
theorem nopEffect : Obligations.NopEffect :=
  ⟨isF0_of_isBare (i := .nop) rfl, fun s => ⟨_, rfl, ⟨rfl, rfl⟩, setResult_onlyReports .ok 0 s⟩⟩

/-- The cleared jitter buffer has its JB_SLOTS slots, all empty (R232). -/
theorem clearJitter_slots_empty (s : State) :
    (clearJitter s).jbSlots.length = s.params.jbSlots ∧ ∀ f ∈ (clearJitter s).jbSlots, f = [] :=
  ⟨List.length_replicate, fun _ => List.eq_of_mem_replicate⟩

/-- The cleared decoder holds metrics and decisions of 0 (R101). -/
theorem clearDecoder_words_zero (s : State) :
    (∀ i : Fin 16, (clearDecoder s).pm[i] = 0) ∧ ∀ i : Fin 180, (clearDecoder s).dec[i] = 0 :=
  ⟨fun i => Vector.getElem_replicate i.isLt, fun i => Vector.getElem_replicate i.isLt⟩

/-- Settles O19: CLR_ALL is the three clears, and each field is what the clears say of it. -/
theorem clrAllEffect : Obligations.ClrAllEffect := by
  refine ⟨isF0_of_isBare (i := .clrAll) rfl, fun s => ⟨_, rfl, ⟨rfl, rfl⟩, ?_⟩⟩
  obtain ⟨hlength, hempty⟩ := clearJitter_slots_empty (clearQueue s)
  obtain ⟨hpm, hdec⟩ := clearDecoder_words_zero (clearJitter (clearQueue s))
  exact ⟨rfl, hlength, hempty, rfl, rfl, rfl, rfl, rfl, rfl, rfl, rfl, rfl, hpm, hdec, rfl,
    ⟨rfl, rfl, rfl, rfl⟩, fun _ => rfl, ⟨rfl, fun _ => rfl⟩, ⟨rfl, rfl⟩⟩

/-! ### The bits and bytes of equal inputs -/

theorem inputBits_congr {n : Nat} {s s' : State} (h : ∀ j < n, s.ibuf.bit j = s'.ibuf.bit j) :
    inputBits n s = inputBits n s' :=
  List.map_congr_left fun j hj => h j (List.mem_range.mp hj)

/-- The number in the first `8 - k` bits of byte `a` depends on those bits alone (R52). -/
theorem Memory.shiftRight_read_congr {m m' : Memory} {a k : Nat}
    (h : ∀ j < 8 - k, m.bit (8 * a + j) = m'.bit (8 * a + j)) :
    (m.read a).toNat >>> k = (m'.read a).toNat >>> k := by
  refine Nat.eq_of_testBit_eq fun i => ?_
  rw [Nat.testBit_shiftRight, Nat.testBit_shiftRight, BitVec.testBit_toNat, BitVec.testBit_toNat]
  by_cases hi : k + i < 8
  · have hbyte : (8 * a + (7 - (k + i))) / 8 = a := by omega
    have hbit : 7 - (8 * a + (7 - (k + i))) % 8 = k + i := by omega
    simpa only [Memory.bit, hbyte, hbit] using h (7 - (k + i)) (by omega)
  · rw [BitVec.getLsbD_of_ge _ _ (by omega), BitVec.getLsbD_of_ge _ _ (by omega)]

theorem Memory.read_congr {m m' : Memory} {a : Nat} (h : ∀ j < 8, m.bit (8 * a + j) = m'.bit (8 * a + j)) :
    m.read a = m'.read a :=
  BitVec.eq_of_toNat_eq (Memory.shiftRight_read_congr (k := 0) h)

/-- The 19 stream bits of a received Golay word are all that GOLAY_DEC reads (R162). -/
theorem golayInput_congr {s s' : State} (h : ∀ j < 19, s.ibuf.bit j = s'.ibuf.bit j) :
    golayInput s = golayInput s' := by
  have h0 : s.ibuf.read 0 = s'.ibuf.read 0 := Memory.read_congr fun j hj => h _ (by omega)
  have h1 : s.ibuf.read 1 = s'.ibuf.read 1 := Memory.read_congr fun j hj => h _ (by omega)
  have h2 : (s.ibuf.read 2).toNat >>> 5 = (s'.ibuf.read 2).toNat >>> 5 :=
    Memory.shiftRight_read_congr fun j hj => h _ (by omega)
  rw [golayInput, golayInput, golayCode19, golayCode19, h0, h1, h2]

/-! ### The codecs -/

/-- The command `c.1` completes with an outcome and an output that depend on the first `c.2` bits of IBUF and on
BPTC_ORDER alone (R103). -/
def ReadsOnlyInput (c : Instr × Nat) : Prop :=
  ∀ s s' : State, s.params.bptcOrder = s'.params.bptcOrder → (∀ j < c.2, s.ibuf.bit j = s'.ibuf.bit j) →
    ∃ t t', exec c.1 s = .next t ∧ exec c.1 s' = .next t' ∧ SameOutcome t t'

/-- `OUT` fills all of OBUF, so that nothing of the old output is left (R11). -/
theorem setResult_out_sameOutcome (r : ResultCode) (a : Byte) (d : List Bool) (s s' : State) :
    SameOutcome (setResult r a (out d s)) (setResult r a (out d s')) :=
  ⟨rfl, rfl, rfl, fun _ => rfl⟩

theorem hammingEncode_readsOnlyInput (c : HammingCode) {i : Instr} (hexec : ∀ s, exec i s = .next (hammingEncode c s)) :
    ReadsOnlyInput (i, c.k) := fun s s' _ hbits => by
  refine ⟨_, _, hexec s, hexec s', ?_⟩
  rw [hammingEncode, hammingEncode, inputBits_congr hbits]
  exact setResult_out_sameOutcome _ _ _ s s'

theorem hammingDecode_readsOnlyInput (c : HammingCode) {i : Instr} (hexec : ∀ s, exec i s = .next (hammingDecode c s)) :
    ReadsOnlyInput (i, c.n) := fun s s' _ hbits => by
  refine ⟨_, _, hexec s, hexec s', ?_⟩
  rw [hammingDecode, hammingDecode, inputBits_congr hbits]
  exact setResult_out_sameOutcome _ _ _ s s'

theorem golayEnc_readsOnlyInput : ReadsOnlyInput (.golayEnc, 8) := fun s s' _ hbits => by
  have hbyte : s.ibuf.read 0 = s'.ibuf.read 0 := Memory.read_congr fun j hj => hbits _ (by omega)
  refine ⟨_, _, rfl, rfl, ?_⟩
  rw [hbyte]
  exact setResult_out_sameOutcome _ _ _ s s'

theorem golayDec_readsOnlyInput : ReadsOnlyInput (.golayDec, 19) := fun s s' _ hbits => by
  refine ⟨_, _, rfl, rfl, ?_⟩
  rw [golayInput_congr hbits]
  exact setResult_out_sameOutcome _ _ _ s s'

theorem bptcEnc_readsOnlyInput : ReadsOnlyInput (.bptcEnc, 96) := fun s s' _ hbits => by
  refine ⟨_, _, rfl, rfl, ?_⟩
  rw [inputBits_congr hbits]
  exact setResult_out_sameOutcome _ _ _ s s'

theorem bptcDec_readsOnlyInput : ReadsOnlyInput (.bptcDec, 196) := fun s s' horder hbits => by
  refine ⟨_, _, rfl, rfl, ?_⟩
  rw [horder, bptcLen, inputBits_congr hbits]
  exact setResult_out_sameOutcome _ _ _ s s'

/-- CONV_ENC past its operand check (R201). -/
theorem execConvEnc_of_range {n : BitVec 16} (hpos : n ≠ 0) (hmax : n.toNat ≤ 1024) (s : State) :
    execConvEnc n s =
      .next (setResult .ok 0 (out (convEncodeFrom false false false false (inputBits n.toNat s)) s)) := by
  have hgood : ¬ convEncBadOperand n = true := by
    rw [convEncBadOperand_iff]
    rintro (hzero | hlarge)
    · exact hpos (BitVec.eq_of_toNat_eq hzero)
    · exact absurd hmax (Nat.not_le_of_lt hlarge)
  rw [execConvEnc, if_neg hgood]

/-- BPTC_ORDER plays no part here. -/
theorem convEnc_sameOutcome {n : BitVec 16} (hpos : n ≠ 0) (hmax : n.toNat ≤ 1024) {s s' : State}
    (hbits : ∀ j < n.toNat, s.ibuf.bit j = s'.ibuf.bit j) :
    ∃ t t', exec (.convEnc n) s = .next t ∧ exec (.convEnc n) s' = .next t' ∧ SameOutcome t t' := by
  refine ⟨_, _, execConvEnc_of_range hpos hmax s, execConvEnc_of_range hpos hmax s', ?_⟩
  rw [inputBits_congr hbits]
  exact setResult_out_sameOutcome _ _ _ s s'

/-- Each row of R103's table. -/
theorem codecInputs_readOnlyInput : ∀ c ∈ codecInputs, ReadsOnlyInput c := by
  simp only [codecInputs, List.forall_mem_cons]
  exact ⟨hammingEncode_readsOnlyInput h15113a fun _ => rfl, hammingDecode_readsOnlyInput h15113a fun _ => rfl,
    hammingEncode_readsOnlyInput h15113b fun _ => rfl, hammingDecode_readsOnlyInput h15113b fun _ => rfl,
    hammingEncode_readsOnlyInput h1393 fun _ => rfl, hammingDecode_readsOnlyInput h1393 fun _ => rfl,
    hammingEncode_readsOnlyInput h17123 fun _ => rfl, hammingDecode_readsOnlyInput h17123 fun _ => rfl,
    golayEnc_readsOnlyInput, golayDec_readsOnlyInput, bptcEnc_readsOnlyInput, bptcDec_readsOnlyInput,
    List.forall_mem_nil _⟩

/-- Settles O59: each codec's answer is computed from its input bits, and `OUT` fills all of OBUF. -/
theorem codecsReadOnlyTheirInput : Obligations.CodecsReadOnlyTheirInput :=
  ⟨codecInputs_readOnlyInput, fun _ _ _ hpos hmax hbits => convEnc_sameOutcome hpos hmax hbits⟩

end Sys2Proof.Machine
end

section
/-! PROOFS. The frame queue (41_frame_queue.md R110 to R115): what each of its commands does, QDATA as a FIFO of payloads,
and its capacity. -/

namespace Sys2Proof.Machine

open Sys2Proof.Claims

/-! ### The queue's bytes replaced -/

/-- The state with QDATA replaced: all that a queue command does to the units (R111 to R113). -/
def State.withQueue (q : List Byte) (s : State) : State := { s with qdata := q }

@[simp] theorem State.withQueue_qdata (q : List Byte) (s : State) : (s.withQueue q).qdata = q := rfl

/-- Without an output, QDATA, RESULT and AUX are all that changes. -/
theorem setResult_withQueue_frame (r : ResultCode) (a : Byte) (q : List Byte) (s : State) :
    let t := setResult r a (s.withQueue q)
    SameHost s t ∧ SameInput s t ∧ SameOutput s t ∧ SameFaults s t ∧ SameJitter s t ∧ SameDecoder s t :=
  ⟨⟨rfl, rfl, rfl, rfl⟩, fun _ => rfl, ⟨rfl, fun _ => rfl⟩, ⟨rfl, rfl⟩, ⟨rfl, rfl, rfl, rfl, rfl, rfl, rfl, rfl⟩,
    ⟨rfl, rfl, rfl, rfl, rfl⟩⟩

/-- With an output, QDATA, RESULT, AUX and the output are all that changes. -/
theorem setResult_outBytes_withQueue_frame (r : ResultCode) (a : Byte) (bs q : List Byte) (s : State) :
    let t := setResult r a (outBytes bs (s.withQueue q))
    SameHost s t ∧ SameInput s t ∧ SameFaults s t ∧ SameJitter s t ∧ SameDecoder s t :=
  ⟨⟨rfl, rfl, rfl, rfl⟩, fun _ => rfl, ⟨rfl, rfl⟩, ⟨rfl, rfl, rfl, rfl, rfl, rfl, rfl, rfl⟩, ⟨rfl, rfl, rfl, rfl, rfl⟩⟩

/-- `OUTB` leaves the bytes as the output, whatever RESULT and AUX are set to (R11). -/
theorem setResult_outBytes_outputBytes (r : ResultCode) (a : Byte) (bs : List Byte) (s : State) :
    OutputBytes (setResult r a (outBytes bs s)) bs := by
  have hout := out_outputIs (bytesBits bs) s
  simp only [bytesBits_length, bytesBits_getD] at hout
  exact hout

/-! ### What each queue command does -/

section

variable {s : State} {len : BitVec 8}

theorem execQPush_of_zero (hlen : len.toNat = 0) : execQPush len s = .next (raiseFault .operand s) :=
  if_pos ((qPushBadOperand_iff len).mpr hlen)

theorem execQPush_of_full (hlen : len.toNat ≠ 0) (hfull : s.qdata.length + 1 + len.toNat > s.params.qCap) :
    execQPush len s = .next (setResult .qFull 0 s) := by
  rw [execQPush, if_neg ((qPushBadOperand_iff len).not.mpr hlen)]
  exact if_pos hfull

theorem execQPush_of_room (hlen : len.toNat ≠ 0) (hroom : s.qdata.length + 1 + len.toNat ≤ s.params.qCap) :
    execQPush len s =
      .next (setResult .ok 0 (s.withQueue (s.qdata ++ record len (inputFrame s len.toNat)))) := by
  rw [execQPush, if_neg ((qPushBadOperand_iff len).not.mpr hlen)]
  exact if_neg (Nat.not_lt_of_le hroom)

/-- What a Q_PUSH can do (R111). -/
theorem execQPush_cases {t : State} (h : execQPush len s = .next t) :
    t = raiseFault .operand s ∨ t = setResult .qFull 0 s ∨
      len.toNat ≠ 0 ∧ t = setResult .ok 0 (s.withQueue (s.qdata ++ record len (inputFrame s len.toNat))) := by
  by_cases hlen : len.toNat = 0
  · exact .inl (next_inj.mp (h.symm.trans (execQPush_of_zero hlen)))
  · by_cases hroom : s.qdata.length + 1 + len.toNat ≤ s.params.qCap
    · exact .inr (.inr ⟨hlen, next_inj.mp (h.symm.trans (execQPush_of_room hlen hroom))⟩)
    · exact .inr (.inl (next_inj.mp (h.symm.trans (execQPush_of_full hlen (Nat.lt_of_not_le hroom)))))

theorem execQPop_of_nil (hq : s.qdata = []) : execQPop s = .next (setResult .qEmpty 0 (outBytes [] s)) := by
  rw [execQPop, hq]
  rfl

/-- Q_POP on any queue that holds a byte, also one that starts with a torn record. -/
theorem execQPop_of_cons {n : Byte} {rest : List Byte} (hq : s.qdata = n :: rest) :
    execQPop s = .next (setResult .ok 0 (outBytes (rest.take n.toNat) (s.withQueue (rest.drop n.toNat)))) := by
  rw [execQPop, hq]
  rfl

/-- A whole record at the front gives its payload and leaves what follows it (R112). -/
theorem execQPop_of_record {n : Byte} {payload rest : List Byte} (hq : s.qdata = n :: (payload ++ rest))
    (hlen : payload.length = n.toNat) :
    execQPop s = .next (setResult .ok 0 (outBytes payload (s.withQueue rest))) := by
  rw [execQPop_of_cons hq, List.take_left' hlen, List.drop_left' hlen]

end

theorem isFL_qPush : IsFL 0x10 .qPush := fun _ hop => decode_qPush hop

/-- Settles O20: the three cases of R111, one equation of Q_PUSH for each. -/
theorem qPushEffect : Obligations.QPushEffect := by
  refine ⟨isFL_qPush, fun s len => ⟨?fault, ?full, ?accepted⟩⟩
  case fault =>
    rintro rfl
    exact ⟨_, execQPush_of_zero rfl, raiseFault_faultsWith .operand s⟩
  case full =>
    intro hlen hfull
    exact ⟨_, execQPush_of_full (BitVec.toNat_ne_iff_ne.mpr hlen) hfull, ⟨rfl, rfl⟩, setResult_onlyReports .qFull 0 s⟩
  case accepted =>
    intro hlen hroom
    exact ⟨_, execQPush_of_room (BitVec.toNat_ne_iff_ne.mpr hlen) hroom, ⟨rfl, rfl⟩, by simp [record],
      setResult_withQueue_frame ..⟩

/-- Settles O21: one equation of Q_POP for the empty queue and one for a whole record. -/
theorem qPopEffect : Obligations.QPopEffect := by
  refine ⟨isF0_of_isBare (i := .qPop) rfl, fun s => ⟨?empty, ?oldest⟩⟩
  case empty =>
    intro hq
    exact ⟨_, execQPop_of_nil hq, ⟨rfl, rfl⟩, setResult_outBytes_outputBytes .., setResult_out_codecFrame ..⟩
  case oldest =>
    intro n payload rest hq hlen
    exact ⟨_, execQPop_of_record hq hlen, ⟨rfl, rfl⟩, setResult_outBytes_outputBytes .., rfl,
      setResult_outBytes_withQueue_frame ..⟩

/-- Settles O22: `clearQueue` is QDATA replaced by the empty list. -/
theorem qClearEffect : Obligations.QClearEffect :=
  ⟨isF0_of_isBare (i := .qClear) rfl, fun s => ⟨_, rfl, ⟨rfl, rfl⟩, rfl, setResult_withQueue_frame .ok 0 [] s⟩⟩

/-! ### The commands of the other units -/

/-- A next state after the outcome `o` has the queue of `s`. -/
def KeepsQueue (s : State) (o : Host.Outcome State Fault Refusal) : Prop := ∀ t, o = .next t → SameQueue s t

theorem keepsQueue_next {s t : State} (h : SameQueue s t) : KeepsQueue s (.next t) :=
  fun _ ht => next_inj.mp ht ▸ h

theorem keepsQueue_raiseFault (e : ErrCode) (s : State) : KeepsQueue s (.next (raiseFault e s)) :=
  keepsQueue_next (raiseFault_qdata e s)

/-- A codec command changes the output, RESULT and AUX (R145). -/
theorem keepsQueue_codec (r : ResultCode) (a : Byte) (d : List Bool) (s : State) :
    KeepsQueue s (.next (setResult r a (out d s))) :=
  keepsQueue_next rfl

theorem execConvEnc_keepsQueue (n : BitVec 16) (s : State) : KeepsQueue s (execConvEnc n s) := by
  unfold execConvEnc
  split_ifs
  · exact keepsQueue_raiseFault _ s
  · exact keepsQueue_next rfl

theorem execConvStep_keepsQueue (s0 s1 : BitVec 8) (s : State) : KeepsQueue s (execConvStep s0 s1 s) := by
  unfold execConvStep
  split_ifs
  · exact keepsQueue_raiseFault _ s
  · exact keepsQueue_raiseFault _ s
  · exact keepsQueue_raiseFault _ s
  · exact keepsQueue_next rfl

theorem execConvChainback_keepsQueue (n : BitVec 16) (s : State) : KeepsQueue s (execConvChainback n s) := by
  unfold execConvChainback
  split_ifs
  · exact keepsQueue_raiseFault _ s
  · exact keepsQueue_raiseFault _ s
  · exact keepsQueue_raiseFault _ s
  · exact keepsQueue_next rfl

theorem jbStore_sameQueue (i seq : Nat) (frame : List Byte) (s : State) : SameQueue s (jbStore i seq frame s) := by
  unfold jbStore
  split_ifs <;> rfl

theorem execJbAdd_keepsQueue (len : BitVec 8) (seq : BitVec 16) (s : State) : KeepsQueue s (execJbAdd len seq s) := by
  unfold execJbAdd
  split_ifs
  · exact keepsQueue_raiseFault _ s
  · exact keepsQueue_next rfl
  · exact keepsQueue_next rfl
  · exact keepsQueue_next (jbStore_sameQueue _ _ _ s)

theorem execJbGet_keepsQueue (s : State) : KeepsQueue s (execJbGet s) := by
  unfold execJbGet
  split_ifs
  · exact keepsQueue_next rfl
  · exact keepsQueue_raiseFault _ s
  all_goals exact keepsQueue_next rfl

theorem execJbClock_keepsQueue (ms : BitVec 16) (s : State) : KeepsQueue s (execJbClock ms s) := by
  refine keepsQueue_next ?_
  split_ifs <;> rfl

/-- The queue commands and CLR_ALL are the only ones that change the queue. -/
theorem exec_sameQueue {i : Instr} {s t : State} (h : exec i s = .next t) (hpop : i ≠ .qPop) (hclear : i ≠ .qClear)
    (hall : i ≠ .clrAll) (hpush : ∀ len, i ≠ .qPush len) : SameQueue s t := by
  suffices hkeeps : KeepsQueue s (exec i s) from hkeeps t h
  cases i with
  | qPop => exact absurd rfl hpop
  | qClear => exact absurd rfl hclear
  | clrAll => exact absurd rfl hall
  | qPush len => exact absurd rfl (hpush len)
  | convEnc n => exact execConvEnc_keepsQueue n s
  | convStep s0 s1 => exact execConvStep_keepsQueue s0 s1 s
  | convChainback n => exact execConvChainback_keepsQueue n s
  | jbAdd len seq => exact execJbAdd_keepsQueue len seq s
  | jbGet => exact execJbGet_keepsQueue s
  | jbClock ms => exact execJbClock_keepsQueue ms s
  | nop | convStart | jbReset => exact keepsQueue_next rfl
  | _ => exact keepsQueue_codec _ _ _ s

/-! ### QDATA as a list of payloads -/

theorem queueBytes_cons (p : List Byte) (rs : List (List Byte)) :
    queueBytes (p :: rs) = BitVec.ofNat 8 p.length :: (p ++ queueBytes rs) := rfl

theorem inputFrame_length (s : State) (n : Nat) : (inputFrame s n).length = n := by simp [inputFrame]

/-- A length byte is the length of its payload (R110). -/
theorem lengthByte_toNat {p : List Byte} (hp : p.length ≤ 255) : (BitVec.ofNat 8 p.length).toNat = p.length := by
  rw [BitVec.toNat_ofNat]
  omega

/-- A payload pushed is one more record at the end (R111). -/
theorem queueBytes_append_frame (rs : List (List Byte)) (s : State) (len : BitVec 8) :
    queueBytes (rs ++ [inputFrame s len.toNat]) = queueBytes rs ++ record len (inputFrame s len.toNat) := by
  simp [queueBytes, record, inputFrame_length]

/-- Q_RECORDS of a list of payloads is its length (R30). -/
theorem countRecords_queueBytes {rs : List (List Byte)} (hgood : GoodPayloads rs) :
    countRecords 0 (queueBytes rs) = rs.length := by
  induction rs with
  | nil => rfl
  | cons p rs ih =>
    obtain ⟨⟨-, hp⟩, hrest⟩ := List.forall_mem_cons.mp hgood
    rw [queueBytes_cons, countRecords, lengthByte_toNat hp, countRecords_payload, ih hrest, List.length_cons,
      Nat.add_comm]

theorem goodPayloads_append_frame {rs : List (List Byte)} (hgood : GoodPayloads rs) (s : State) {len : BitVec 8}
    (hlen : len.toNat ≠ 0) : GoodPayloads (rs ++ [inputFrame s len.toNat]) := by
  have hframe : 1 ≤ (inputFrame s len.toNat).length ∧ (inputFrame s len.toNat).length ≤ 255 := by
    rw [inputFrame_length]
    omega
  exact List.forall_mem_append.mpr ⟨hgood, List.forall_mem_singleton.mpr hframe⟩

/-- Settles O23: QDATA as `queueBytes` of a list, followed through Q_PUSH, Q_POP and every command of another unit. -/
theorem queueIsFifo : Obligations.QueueIsFifo := by
  intro s rs hgood hq
  refine ⟨?records, ?push, ?pop, ?popEmpty, ?others⟩
  case records => rw [State.qRecords, hq, countRecords_queueBytes hgood]
  case push =>
    intro len t ht
    rcases execQPush_cases ht with rfl | rfl | ⟨hlen, rfl⟩
    · rw [raiseFault_result, if_neg (by decide), raiseFault_qdata, hq]
    · rw [setResult_result, if_neg (by decide), setResult_qdata, hq]
    · rw [setResult_result, if_pos rfl, setResult_qdata, State.withQueue_qdata, hq, queueBytes_append_frame]
      exact ⟨rfl, goodPayloads_append_frame hgood s hlen⟩
  case pop =>
    rintro p rest rfl
    obtain ⟨⟨-, hp⟩, -⟩ := List.forall_mem_cons.mp hgood
    exact ⟨_, execQPop_of_record hq (lengthByte_toNat hp).symm, rfl, setResult_outBytes_outputBytes .., rfl⟩
  case popEmpty =>
    rintro rfl
    exact ⟨_, execQPop_of_nil hq, rfl, hq⟩
  case others =>
    intro i t ht hpop hclear hall hpush
    exact (exec_sameQueue ht hpop hclear hall hpush).trans hq

/-! ### The capacity -/

/-- The queue holds at most Q_CAP bytes (R115). -/
def QueueFits (s : State) : Prop := s.qdata.length ≤ s.params.qCap

theorem UnitUpdate.queueFits {s u : State} (hu : UnitUpdate s u) (h : QueueFits s) : QueueFits u := by
  cases hu with
  | allCleared => exact Nat.zero_le _
  | queueCleared => exact Nat.zero_le _
  | recordPushed len _ hroom =>
    simp only [QueueFits, State.qUsed, record, List.length_append, List.length_cons, inputBytes_length] at hroom ⊢
    omega
  | recordPopped n rest hq =>
    simp only [QueueFits, hq, List.length_cons, List.length_drop] at h ⊢
    omega
  | _ => exact h

theorem CommandEffect.queueFits {s t : State} (ht : CommandEffect s t) (h : QueueFits s) : QueueFits t := by
  cases ht with
  | faults e _ => simpa [QueueFits] using h
  | reports r a _ hu => exact hu.queueFits h
  | outputs r a d _ _ hu => exact hu.queueFits h

/-- What every effect of a command keeps holds after every sequence of commands. -/
theorem execAll_keeps {P : State → Prop} (hkeeps : ∀ s t, CommandEffect s t → P s → P t) {cmds : List Instr}
    {s t : State} (hs : P s) (hexec : execAll cmds s = .next t) : P t := by
  induction cmds generalizing s with
  | nil => exact next_inj.mp hexec ▸ hs
  | cons i rest ih =>
    obtain ⟨u, hu, heffect⟩ := exec_completes i s
    rw [execAll, hu] at hexec
    exact ih (hkeeps s u heffect hs) hexec

theorem execQPop_result_ne_qFull {s t : State} (h : execQPop s = .next t) : t.result ≠ .qFull := by
  cases hq : s.qdata with
  | nil =>
    obtain rfl := next_inj.mp (h.symm.trans (execQPop_of_nil hq))
    exact nofun
  | cons n rest =>
    obtain rfl := next_inj.mp (h.symm.trans (execQPop_of_cons hq))
    exact nofun

/-- Q_FULL is the answer of a rejected push alone, or of a command of another unit, and neither touches QDATA (R111). -/
theorem exec_qFull_sameQueue {i : Instr} {s t : State} (h : exec i s = .next t) (hfull : t.result = .qFull) :
    SameQueue s t := by
  cases i with
  | qPush len =>
    rcases execQPush_cases h with rfl | rfl | ⟨-, rfl⟩
    · exact raiseFault_qdata .operand s
    · rfl
    · cases hfull
  | qPop => exact absurd hfull (execQPop_result_ne_qFull h)
  | qClear =>
    obtain rfl := next_inj.mp h
    cases hfull
  | clrAll =>
    obtain rfl := next_inj.mp h
    cases hfull
  | _ => exact exec_sameQueue h nofun nofun nofun fun _ => nofun

/-- Settles O24: every effect of a command keeps the bound and the parameters. -/
theorem queueCapacityBound : Obligations.QueueCapacityBound := by
  refine ⟨fun cmds s t hfits hexec => ?_, fun _ _ _ => exec_qFull_sameQueue⟩
  have hkeeps : ∀ u v : State, CommandEffect u v → QueueFits u ∧ u.params = s.params →
      QueueFits v ∧ v.params = s.params :=
    fun _ _ heffect ⟨hu, hparams⟩ => ⟨heffect.queueFits hu, heffect.params_eq.trans hparams⟩
  exact execAll_keeps (P := fun u => QueueFits u ∧ u.params = s.params) hkeeps ⟨hfits, rfl⟩ hexec

end Sys2Proof.Machine
end

section
/-! PROOFS. The Hamming codes (42_hamming.md R130 to R149): the syndrome is linear in the received bits and 0 on
codewords, a code's columns are distinct and are its syndrome table, and so what each command does and which errors a
decode corrects. -/

namespace Sys2Proof.Machine

open Sys2Proof.Claims
open Sys2Proof.Laws.EncodeFields (opcode)

/-! ### The parity of an equation set -/

theorem xorOf_congr {f g : Nat → Bool} {e : List Nat} (h : ∀ i ∈ e, f i = g i) : xorOf f e = xorOf g e := by
  induction e with
  | nil => rfl
  | cons i e ih =>
    obtain ⟨hi, he⟩ := List.forall_mem_cons.mp h
    rw [xorOf, xorOf, hi, ih he]

theorem xorOf_xor (f g : Nat → Bool) (e : List Nat) :
    xorOf (fun i => f i ^^ g i) e = (xorOf f e ^^ xorOf g e) := by
  induction e with
  | nil => rfl
  | cons i e ih => simp only [xorOf, ih, Bool.xor_assoc, Bool.xor_left_comm]

/-- The model's parity is the spec's (R130). -/
theorem parity_eq_xorOf (e : List Nat) (d : List Bool) : parity e d = xorOf (bitAt d) e := by
  have hfrom : ∀ acc, e.foldl (fun acc i => acc ^^ bitAt d i) acc = (acc ^^ xorOf (bitAt d) e) := by
    induction e with
    | nil => simp [xorOf]
    | cons i e ih => simp [xorOf, ih]
  simp [parity, hfrom]

/-! ### The syndrome -/

/-- The first equation set gives the lowest bit of the syndrome. -/
theorem syndromeOf_cons (k : Nat) (e : List Nat) (eqs : List (List Nat)) (d : Nat → Bool) :
    syndromeOf k (e :: eqs) d = Nat.bit (xorOf d e ^^ d k) (syndromeOf (k + 1) eqs d) := by
  have hbit : ∀ b : Bool, bit b = b.toNat := by decide
  simp [syndromeOf, List.range_succ_eq_map, Nat.bit_val, hbit, Function.comp_def, pow_succ', mul_left_comm _ 2,
    List.sum_map_mul_left, Nat.add_comm, Nat.add_left_comm]

/-- The model's syndrome is the spec's (R130). -/
theorem HammingCode.syn_eq_syndromeOf (c : HammingCode) (d : List Bool) :
    c.syn d = syndromeOf c.k c.eqs (bitAt d) := by
  obtain ⟨k, eqs⟩ := c
  change bitsToNat (syndromeBits d k eqs) = syndromeOf k eqs (bitAt d)
  induction eqs generalizing k with
  | nil => rfl
  | cons e eqs ih =>
    rw [syndromeBits, bitsToNat, ih, syndromeOf_cons, parity_eq_xorOf, Nat.bit_val, Nat.add_comm]

/-- The syndrome is linear over GF(2). -/
theorem syndromeOf_xor (k : Nat) (eqs : List (List Nat)) (f g : Nat → Bool) :
    syndromeOf k eqs (fun i => f i ^^ g i) = syndromeOf k eqs f ^^^ syndromeOf k eqs g := by
  induction eqs generalizing k with
  | nil => simp [syndromeOf]
  | cons e eqs ih =>
    simp [syndromeOf_cons, Nat.xor_bit, ih, xorOf_xor, Bool.xor_left_comm]

/-- A word whose bits k, k + 1, ... are its own parity bits has syndrome 0. -/
theorem syndromeOf_eq_zero {k : Nat} {eqs : List (List Nat)} {d : Nat → Bool}
    (h : ∀ j < eqs.length, d (k + j) = xorOf d (eqs.getD j [])) : syndromeOf k eqs d = 0 := by
  refine List.sum_eq_zero fun x hx => ?_
  obtain ⟨j, hj, rfl⟩ := List.mem_map.mp hx
  rw [h j (List.mem_range.mp hj), Bool.xor_self]
  exact Nat.zero_mul _

/-! ### Codes -/

/-- What the spec says of its four codes (R130, R132): the equations are about data bits, and the columns are nonzero
and distinct. -/
structure HammingCode.Valid (c : HammingCode) : Prop where
  fits : c.n ≤ 2048
  indices_lt : ∀ e ∈ c.eqs, ∀ i ∈ e, i < c.k
  columns_nodup : (0 :: (List.range c.n).map c.col).Nodup

theorem h15113a_valid : h15113a.Valid := ⟨by decide, by decide, by decide⟩

theorem h15113b_valid : h15113b.Valid := ⟨by decide, by decide, by decide⟩

theorem h1393_valid : h1393.Valid := ⟨by decide, by decide, by decide⟩

theorem h17123_valid : h17123.Valid := ⟨by decide, by decide, by decide⟩

/-- Bit b of the codeword of the data bits `m` (R131). -/
def HammingCode.codeword (c : HammingCode) (m : Nat → Bool) (b : Nat) : Bool :=
  if b < c.k then m b else xorOf m (c.eqs.getD (b - c.k) [])

theorem bitAt_unitBits {n j : Nat} (i : Nat) (hj : j < n) : bitAt (unitBits n i) j = decide (j = i) := by
  simp [bitAt, unitBits, hj]

theorem bitAt_inputBits {n j : Nat} (s : State) (hj : j < n) : bitAt (inputBits n s) j = s.ibuf.bit j :=
  s.ibuf.bits_getD n j hj

theorem bitAt_flipBit {d : List Bool} {j : Nat} (i : Nat) (hj : j < d.length) :
    bitAt (flipBit d i) j = (bitAt d j ^^ decide (j = i)) := by
  by_cases hji : j = i
  · subst hji
    simp [bitAt, flipBit, hj]
  · simp [bitAt, flipBit, hji, List.getElem?_set_ne (Ne.symm hji)]

/-- The encoder's output is the codeword of its data bits (R131). -/
theorem HammingCode.bitAt_encode (c : HammingCode) {d : List Bool} {i : Nat} (hd : d.length = c.k) (hi : i < c.n) :
    bitAt (c.encode d) i = c.codeword (bitAt d) i := by
  by_cases hik : i < c.k
  · simp [bitAt, encode, codeword, List.getElem?_append_left, hd, hik]
  · have hj : i - c.k < c.eqs.length := by unfold n at hi; omega
    simp [bitAt, encode, codeword, List.getElem?_append_right, hd, hik, hj, Nat.le_of_not_lt hik, parity_eq_xorOf]

namespace HammingCode.Valid

variable {c : HammingCode} (hc : c.Valid)
include hc

theorem lt_of_mem_getD {i j : Nat} (hi : i ∈ c.eqs.getD j []) : i < c.k := by
  by_cases hj : j < c.eqs.length
  · rw [List.getD_eq_getElem _ _ hj] at hi
    exact hc.indices_lt _ (List.getElem_mem hj) i hi
  · rw [List.getD_eq_default _ _ (Nat.le_of_not_lt hj)] at hi
    cases hi

/-- The syndrome depends on the n bits of the word alone (R144). -/
theorem syndromeOf_congr {f g : Nat → Bool} (h : ∀ j < c.n, f j = g j) :
    syndromeOf c.k c.eqs f = syndromeOf c.k c.eqs g := by
  refine congrArg List.sum (List.map_congr_left fun j hj => ?_)
  have hj : j < c.eqs.length := List.mem_range.mp hj
  have hsets : xorOf f (c.eqs.getD j []) = xorOf g (c.eqs.getD j []) :=
    xorOf_congr fun i hi => h i (Nat.lt_add_right _ (hc.lt_of_mem_getD hi))
  rw [hsets, h (c.k + j) (Nat.add_lt_add_left hj _)]

theorem syn_inputBits (s : State) : c.syn (inputBits c.n s) = syndromeOf c.k c.eqs s.ibuf.bit :=
  (c.syn_eq_syndromeOf _).trans (hc.syndromeOf_congr fun _ hj => bitAt_inputBits s hj)

/-- The column of a bit is the syndrome of an error in that bit alone (R130). -/
theorem syndromeOf_single (i : Nat) : syndromeOf c.k c.eqs (fun j => decide (j = i)) = c.col i :=
  ((c.syn_eq_syndromeOf _).trans (hc.syndromeOf_congr fun _ hj => bitAt_unitBits i hj)).symm

/-- An encoded word has syndrome 0. -/
theorem syndromeOf_codeword (m : Nat → Bool) : syndromeOf c.k c.eqs (c.codeword m) = 0 := by
  refine syndromeOf_eq_zero fun j _ => ?_
  have hparity : c.codeword m (c.k + j) = xorOf m (c.eqs.getD j []) := by simp [codeword]
  rw [hparity]
  exact xorOf_congr fun i hi => (if_pos (hc.lt_of_mem_getD hi)).symm

/-- The syndrome of a received codeword is that of the error in it. -/
theorem syndromeOf_received {u err m : Nat → Bool} (hu : ∀ j < c.n, u j = (c.codeword m j ^^ err j)) :
    syndromeOf c.k c.eqs u = syndromeOf c.k c.eqs err := by
  rw [hc.syndromeOf_congr hu, syndromeOf_xor, hc.syndromeOf_codeword, Nat.zero_xor]

theorem col_ne_zero {b : Nat} (hb : b < c.n) : c.col b ≠ 0 := fun hzero =>
  (List.nodup_cons.mp hc.columns_nodup).1 (hzero ▸ List.mem_map_of_mem (List.mem_range.mpr hb))

theorem col_inj {a b : Nat} (ha : a < c.n) (hb : b < c.n) (h : c.col a = c.col b) : a = b :=
  List.inj_on_of_nodup_map (List.nodup_cons.mp hc.columns_nodup).2 (List.mem_range.mpr ha) (List.mem_range.mpr hb) h

end HammingCode.Valid

/-! ### Outputs -/

theorem outputIs_congr {t : State} {n : Nat} {f g : Nat → Bool} (hout : OutputIs t n f) (h : ∀ i < n, f i = g i) :
    OutputIs t n g := by
  obtain ⟨hlen, hbits⟩ := hout
  refine ⟨hlen, fun i => (hbits i).trans ?_⟩
  by_cases hi : i < n
  · rw [h i hi]
  · simp [hi]

theorem bit_of_outputIs {t : State} {n i : Nat} {f : Nat → Bool} (hout : OutputIs t n f) (hn : n ≤ 2048) (hi : i < n) :
    t.obuf.bit i = f i := by
  obtain ⟨-, hbits⟩ := hout
  simp [hbits i, hi, Nat.lt_of_lt_of_le hi hn]

/-- The output of a codec command, bit by bit (R11). -/
theorem setResult_out_outputIs {r : ResultCode} {a : Byte} {d : List Bool} {n : Nat} {f : Nat → Bool} (s : State)
    (hd : d.length = n) (hbits : ∀ i < n, bitAt d i = f i) : OutputIs (setResult r a (out d s)) n f := by
  subst hd
  exact outputIs_congr (out_outputIs d s) hbits

/-! ### What a command does -/

namespace HammingCode.Valid

variable {c : HammingCode} (hc : c.Valid) (s : State)
include hc

/-- The `_ENC` command of a code (R131). -/
theorem hammingEncode_outputIs : OutputIs (hammingEncode c s) c.n (c.codeword s.ibuf.bit) := by
  refine setResult_out_outputIs s (by simp [n]) fun i hi => ?_
  rw [c.bitAt_encode (inputBits_length c.k s) hi, codeword, codeword]
  split_ifs with hik
  · exact bitAt_inputBits s hik
  · exact xorOf_congr fun j hj => bitAt_inputBits s (hc.lt_of_mem_getD hj)

/-- What the `_DEC` command of a code reports and gives out, by what `correct` answers. -/
theorem hammingDecode_of_correct {r : ResultCode} {d : List Bool} {f : Nat → Bool}
    (h : c.correct (inputBits c.n s) = (r, d)) (hd : d.length = c.n) (hbits : ∀ i < c.n, bitAt d i = f i) :
    Reports (hammingDecode c s) r (syndromeOf c.k c.eqs s.ibuf.bit) ∧ OutputIs (hammingDecode c s) c.n f := by
  rw [hammingDecode, h, hc.syn_inputBits]
  exact ⟨⟨rfl, rfl⟩, setResult_out_outputIs s hd hbits⟩

/-- Decoding a codeword. -/
theorem hammingDecode_of_syndrome_zero (hsyn : syndromeOf c.k c.eqs s.ibuf.bit = 0) :
    Reports (hammingDecode c s) .clean (syndromeOf c.k c.eqs s.ibuf.bit) ∧
      OutputIs (hammingDecode c s) c.n s.ibuf.bit := by
  have hcorrect : c.correct (inputBits c.n s) = (.clean, inputBits c.n s) := by
    rw [correct, if_pos ((hc.syn_inputBits s).trans hsyn)]
  exact hc.hammingDecode_of_correct s hcorrect (inputBits_length _ s) fun _ hi => bitAt_inputBits s hi

/-- Decoding a word whose syndrome is the column of bit b. -/
theorem hammingDecode_of_syndrome_col {b : Nat} (hb : b < c.n) (hsyn : syndromeOf c.k c.eqs s.ibuf.bit = c.col b) :
    Reports (hammingDecode c s) .corrected (syndromeOf c.k c.eqs s.ibuf.bit) ∧
      OutputIs (hammingDecode c s) c.n fun j => s.ibuf.bit j ^^ decide (j = b) := by
  have hsyn' := (hc.syn_inputBits s).trans hsyn
  rcases c.correct_cases (inputBits c.n s) with ⟨hzero, -⟩ | ⟨i, -, hi, hcol, hcorrect⟩ | ⟨-, hnone, -⟩
  · exact absurd (hsyn'.symm.trans hzero) (hc.col_ne_zero hb)
  · obtain rfl := hc.col_inj hi hb (hcol.trans hsyn')
    refine hc.hammingDecode_of_correct s hcorrect (by simp) fun j hj => ?_
    rw [bitAt_flipBit i (by simpa using hj), bitAt_inputBits s hj]
  · exact absurd hsyn'.symm (hnone b hb)

/-- Decoding a word whose syndrome is no bit's column. -/
theorem hammingDecode_of_syndrome_other (hsyn : syndromeOf c.k c.eqs s.ibuf.bit ≠ 0)
    (hnone : ∀ b < c.n, c.col b ≠ syndromeOf c.k c.eqs s.ibuf.bit) :
    Reports (hammingDecode c s) .uncorrectable (syndromeOf c.k c.eqs s.ibuf.bit) ∧
      OutputIs (hammingDecode c s) c.n s.ibuf.bit := by
  rw [← hc.syn_inputBits s] at hsyn hnone
  rcases c.correct_cases (inputBits c.n s) with ⟨hzero, -⟩ | ⟨i, -, hi, hcol, -⟩ | ⟨-, -, hcorrect⟩
  · exact absurd hzero hsyn
  · exact absurd hcol (hnone i hi)
  · exact hc.hammingDecode_of_correct s hcorrect (inputBits_length _ s) fun _ hi => bitAt_inputBits s hi

end HammingCode.Valid

/-! ### The encoders -/

theorem HammingCode.Valid.encodesAs {c : HammingCode} (hc : c.Valid) {i : Instr} (hbare : isBare i = true)
    (hexec : ∀ s, exec i s = .next (hammingEncode c s)) : EncodesAs (opcode i) i c.k c.eqs :=
  ⟨isF0_of_isBare hbare, fun s => ⟨_, hexec s, ⟨rfl, rfl⟩, setResult_out_codecFrame .., hc.hammingEncode_outputIs s⟩⟩

/-- Settles O25: one lemma for all four codes, whose equation sets are the spec's. -/
theorem hammingEncoders : Obligations.HammingEncoders :=
  ⟨h15113a_valid.encodesAs (i := .h15113aEnc) rfl fun _ => rfl,
    h15113b_valid.encodesAs (i := .h15113bEnc) rfl fun _ => rfl,
    h1393_valid.encodesAs (i := .h1393Enc) rfl fun _ => rfl,
    h17123_valid.encodesAs (i := .h17123Enc) rfl fun _ => rfl⟩

/-! ### The decoders -/

/-- The syndrome table of a code: each bit under its column (R130). -/
def HammingCode.columnTable (c : HammingCode) : List (Nat × Nat) := (List.range c.n).map fun b => (c.col b, b)

theorem HammingCode.mem_columnTable (c : HammingCode) {x b : Nat} :
    (x, b) ∈ c.columnTable ↔ b < c.n ∧ c.col b = x := by
  simp [columnTable]

/-- The table of R146 lists the columns in another order. -/
theorem columnTable_h15113a : h15113a.columnTable.Perm tableA := by decide

theorem columnTable_h15113b : h15113b.columnTable.Perm tableB := by decide

theorem columnTable_h1393 : h1393.columnTable.Perm table13 := by decide

theorem columnTable_h17123 : h17123.columnTable.Perm table17 := by decide

theorem HammingCode.Valid.decodesAs {c : HammingCode} (hc : c.Valid) {table : List (Nat × Nat)}
    (htable : c.columnTable.Perm table) {i : Instr} (hbare : isBare i = true)
    (hexec : ∀ s, exec i s = .next (hammingDecode c s)) : DecodesAs (opcode i) i c.k c.eqs table := by
  refine ⟨isF0_of_isBare hbare, fun s => ⟨_, hexec s, setResult_out_codecFrame .., ?_⟩⟩
  simp only [← htable.mem_iff, c.mem_columnTable]
  by_cases hzero : syndromeOf c.k c.eqs s.ibuf.bit = 0
  · have hclean := hc.hammingDecode_of_syndrome_zero s hzero
    rw [hzero] at hclean
    exact .inl ⟨hzero, hclean⟩
  · by_cases hcol : ∃ b < c.n, c.col b = syndromeOf c.k c.eqs s.ibuf.bit
    · obtain ⟨b, hb, hcol⟩ := hcol
      exact .inr (.inl ⟨b, ⟨hb, hcol⟩, hc.hammingDecode_of_syndrome_col s hb hcol.symm⟩)
    · exact .inr (.inr ⟨hzero, fun b hb => hcol ⟨b, hb⟩,
        hc.hammingDecode_of_syndrome_other s hzero fun b hb hcolb => hcol ⟨b, hb, hcolb⟩⟩)

/-- Settles O26: the spec's tables list the columns, and `correct` looks a syndrome up among the columns. -/
theorem hammingDecoders : Obligations.HammingDecoders :=
  ⟨h15113a_valid.decodesAs columnTable_h15113a (i := .h15113aDec) rfl fun _ => rfl,
    h15113b_valid.decodesAs columnTable_h15113b (i := .h15113bDec) rfl fun _ => rfl,
    h1393_valid.decodesAs columnTable_h1393 (i := .h1393Dec) rfl fun _ => rfl,
    h17123_valid.decodesAs columnTable_h17123 (i := .h17123Dec) rfl fun _ => rfl⟩

/-! ### Errors in a codeword -/

theorem hammingDecode_sameOutcome (c : HammingCode) {s s' : State} (h : ∀ j < c.n, s.ibuf.bit j = s'.ibuf.bit j) :
    SameOutcome (hammingDecode c s) (hammingDecode c s') := by
  rw [hammingDecode, hammingDecode, inputBits_congr h]
  exact setResult_out_sameOutcome _ _ _ s s'

/-- Two errors are one error and another. -/
theorem HammingCode.Valid.syndromeOf_pair {c : HammingCode} (hc : c.Valid) {e f : Nat} (hne : e ≠ f) :
    syndromeOf c.k c.eqs (fun j => decide (j = e) || decide (j = f)) = c.col e ^^^ c.col f := by
  rw [← hc.syndromeOf_single e, ← hc.syndromeOf_single f, ← syndromeOf_xor]
  refine hc.syndromeOf_congr fun j _ => ?_
  by_cases hj : j = e
  · simp [hj, hne]
  · simp [hj]

section

variable {c : HammingCode} {m err : Nat → Bool} {u : State}

/-- `u` holds the codeword of the data bits `m`, with the bits that `err` says flipped. -/
def HammingCode.Received (c : HammingCode) (m err : Nat → Bool) (u : State) : Prop :=
  ∀ j < c.n, u.ibuf.bit j = (c.codeword m j ^^ err j)

/-- R144 (a). -/
theorem HammingCode.Valid.decode_no_error (hc : c.Valid) (hu : c.Received m err u) (herr : ∀ j < c.n, err j = false) :
    (hammingDecode c u).result = .clean ∧ OutputIs (hammingDecode c u) c.n (c.codeword m) := by
  have hword : ∀ j < c.n, u.ibuf.bit j = c.codeword m j := fun j hj => by rw [hu j hj, herr j hj, Bool.xor_false]
  have hsyn : syndromeOf c.k c.eqs u.ibuf.bit = 0 := (hc.syndromeOf_congr hword).trans (hc.syndromeOf_codeword m)
  obtain ⟨⟨hresult, -⟩, hout⟩ := hc.hammingDecode_of_syndrome_zero u hsyn
  exact ⟨hresult, outputIs_congr hout hword⟩

/-- R144 (b). -/
theorem HammingCode.Valid.decode_one_error (hc : c.Valid) (hu : c.Received m err u) {e : Nat} (he : e < c.n)
    (herr : ∀ j < c.n, err j = decide (j = e)) :
    (hammingDecode c u).result = .corrected ∧ OutputIs (hammingDecode c u) c.n (c.codeword m) := by
  have hsyn : syndromeOf c.k c.eqs u.ibuf.bit = c.col e :=
    (hc.syndromeOf_received hu).trans ((hc.syndromeOf_congr herr).trans (hc.syndromeOf_single e))
  obtain ⟨⟨hresult, -⟩, hout⟩ := hc.hammingDecode_of_syndrome_col u he hsyn
  refine ⟨hresult, outputIs_congr hout fun j hj => ?_⟩
  rw [hu j hj, herr j hj, Bool.xor_assoc, Bool.xor_self, Bool.xor_false]

/-- R144 (c): the syndrome is the XOR of two different columns, and a third flip cannot undo both errors. -/
theorem HammingCode.Valid.decode_two_errors (hc : c.Valid) (hu : c.Received m err u) {e f : Nat} (hef : e < f)
    (hf : f < c.n) (herr : ∀ j < c.n, err j = (decide (j = e) || decide (j = f))) :
    (hammingDecode c u).result = .uncorrectable ∨
      (hammingDecode c u).result = .corrected ∧ ∃ j < c.n, (hammingDecode c u).obuf.bit j ≠ c.codeword m j := by
  have he : e < c.n := hef.trans hf
  have hsyn : syndromeOf c.k c.eqs u.ibuf.bit = c.col e ^^^ c.col f :=
    (hc.syndromeOf_received hu).trans ((hc.syndromeOf_congr herr).trans (hc.syndromeOf_pair hef.ne))
  have hne : syndromeOf c.k c.eqs u.ibuf.bit ≠ 0 := by
    rw [hsyn, Ne, Nat.xor_eq_zero_iff]
    exact fun hcol => hef.ne (hc.col_inj he hf hcol)
  by_cases hcol : ∃ b < c.n, c.col b = syndromeOf c.k c.eqs u.ibuf.bit
  · obtain ⟨b, hb, hcol⟩ := hcol
    obtain ⟨⟨hresult, -⟩, hout⟩ := hc.hammingDecode_of_syndrome_col u hb hcol.symm
    have hwrong : ∀ j < c.n, (j = e ∨ j = f) → j ≠ b → (hammingDecode c u).obuf.bit j ≠ c.codeword m j := by
      intro j hj hflipped hjb
      have herrj : err j = true := by simpa [herr j hj] using hflipped
      simp [bit_of_outputIs hout hc.fits hj, hu j hj, herrj, hjb]
    by_cases heb : e = b
    · exact .inr ⟨hresult, f, hf, hwrong f hf (.inr rfl) fun hfb => hef.ne (heb.trans hfb.symm)⟩
    · exact .inr ⟨hresult, e, he, hwrong e he (.inl rfl) heb⟩
  · obtain ⟨⟨hresult, -⟩, -⟩ := hc.hammingDecode_of_syndrome_other u hne fun b hb hcolb => hcol ⟨b, hb, hcolb⟩
    exact .inl hresult

end

theorem HammingCode.Valid.correctsErrors {c : HammingCode} (hc : c.Valid) {enc dec : Instr}
    (henc : ∀ s, exec enc s = .next (hammingEncode c s)) (hdec : ∀ s, exec dec s = .next (hammingDecode c s)) :
    CorrectsErrors enc dec c.k c.n := by
  refine ⟨fun s s' hbits => ⟨_, _, hdec s, hdec s', hammingDecode_sameOutcome c hbits, c.correct_ne_faulted _⟩,
    fun s t u err ht hu => ?_⟩
  obtain rfl := next_inj.mp (ht.symm.trans (henc s))
  have hword : ∀ j < c.n, c.codeword s.ibuf.bit j = (hammingEncode c s).obuf.bit j := fun _ hj =>
    (bit_of_outputIs (hc.hammingEncode_outputIs s) hc.fits hj).symm
  have hreceived : c.Received s.ibuf.bit err u := fun j hj => by rw [hu j hj, hword j hj]
  refine ⟨fun herr => ?none, fun e he herr => ?one, fun e f hef hf herr => ?two⟩
  case none =>
    obtain ⟨hresult, hout⟩ := hc.decode_no_error hreceived herr
    refine ⟨_, hdec u, hresult, outputIs_congr hout hword, fun j hj => ?_⟩
    rw [bit_of_outputIs hout hc.fits (Nat.lt_add_right _ hj), codeword, if_pos hj]
  case one =>
    obtain ⟨hresult, hout⟩ := hc.decode_one_error hreceived he herr
    exact ⟨_, hdec u, hresult, outputIs_congr hout hword⟩
  case two =>
    refine ⟨_, hdec u, (hc.decode_two_errors hreceived hef hf herr).imp_right ?_⟩
    rintro ⟨hresult, j, hj, hwrong⟩
    exact ⟨hresult, j, hj, fun h => hwrong (h.trans (hword j hj).symm)⟩

/-- Settles O27: one lemma for all four codes. -/
theorem hammingErrorCorrection : Obligations.HammingErrorCorrection :=
  ⟨h15113a_valid.correctsErrors (fun _ => rfl) fun _ => rfl, h15113b_valid.correctsErrors (fun _ => rfl) fun _ => rfl,
    h1393_valid.correctsErrors (fun _ => rfl) fun _ => rfl, h17123_valid.correctsErrors (fun _ => rfl) fun _ => rfl⟩

end Sys2Proof.Machine
end

section
/-! PROOFS. The Golay code (43_golay.md R160 to R165): the remainder modulo g(x) is linear and is 0 exactly on the
multiples of g(x), a nonzero multiple has at least seven one bits, the decoder's table lists exactly the patterns of at
most three, and so what each command does and which errors a decode corrects. -/

namespace Sys2Proof.Machine

open Sys2Proof.Claims
open Sys2Proof.Laws.EncodeFields (opcode)

/-! ### Division by g(x) -/

theorem golayG_testBit_shifted (k : Nat) : (golayG <<< k).testBit (11 + k) = true := by
  rw [Nat.testBit_shiftLeft, Nat.add_sub_cancel]
  simpa using (by decide : golayG.testBit 11 = true)

theorem golayG_shifted_lt (k : Nat) : golayG <<< k < 2 ^ (11 + (k + 1)) := by
  rw [show 11 + (k + 1) = 12 + k by omega]
  exact Nat.shiftLeft_lt (by decide)

/-- What one step of the long division subtracts. -/
def golayStep (k p : Nat) : Nat := if p.testBit (11 + k) then golayG <<< k else 0

theorem golayDivide_succ (k p : Nat) : golayDivide (k + 1) p = golayDivide k (p ^^^ golayStep k p) := by
  rw [golayDivide, golayStep]
  split_ifs <;> simp

theorem golayStep_xor (k p p' : Nat) : golayStep k (p ^^^ p') = golayStep k p ^^^ golayStep k p' := by
  unfold golayStep
  rw [Nat.testBit_xor]
  cases p.testBit (11 + k) <;> cases p'.testBit (11 + k) <;> simp

/-- The remainder is linear over GF(2) (R162). -/
theorem golayDivide_xor (k p p' : Nat) : golayDivide k (p ^^^ p') = golayDivide k p ^^^ golayDivide k p' := by
  induction k generalizing p p' with
  | zero => rfl
  | succ k ih =>
    rw [golayDivide_succ, golayDivide_succ, golayDivide_succ, ← ih, golayStep_xor]
    congr 1
    ac_rfl

theorem golayDivide_zero_right (k : Nat) : golayDivide k 0 = 0 := by
  simpa using golayDivide_xor k 0 0

theorem golayDivide_lt {k p : Nat} (hp : p < 2 ^ (11 + k)) : golayDivide k p < 2 ^ 11 := by
  induction k generalizing p with
  | zero => exact hp
  | succ k ih =>
    rw [golayDivide_succ]
    refine ih (Nat.lt_pow_two_of_testBit _ fun i hi => ?_)
    rw [Nat.testBit_xor, golayStep]
    rcases Nat.eq_or_lt_of_le hi with rfl | hlt
    · cases h : p.testBit (11 + k)
      · simp
      · rw [if_pos rfl, golayG_testBit_shifted, Bool.xor_self]
    · have hp' := Nat.testBit_lt_two_pow (hp.trans_le (Nat.pow_le_pow_right (by decide) hlt))
      have hg := Nat.testBit_lt_two_pow ((golayG_shifted_lt k).trans_le (Nat.pow_le_pow_right (by decide) hlt))
      split_ifs <;> simp [hp', hg]

/-! ### Multiples of g(x) -/

theorem clmul_congr {n a a' : Nat} (b : Nat) (h : ∀ i < n, a.testBit i = a'.testBit i) :
    clmul n a b = clmul n a' b := by
  induction n with
  | zero => rfl
  | succ n ih => rw [clmul, clmul, h n n.lt_succ_self, ih fun i hi => h i (hi.trans n.lt_succ_self)]

theorem clmul_lt (n q : Nat) : clmul n q golayG < 2 ^ (11 + n) := by
  induction n with
  | zero => exact Nat.two_pow_pos 11
  | succ n ih =>
    rw [clmul]
    refine Nat.xor_lt_two_pow ?_ (ih.trans (Nat.pow_lt_pow_right (by decide) (by omega)))
    split_ifs
    · exact golayG_shifted_lt n
    · exact Nat.two_pow_pos _

/-- A multiple of g(x) leaves no remainder. -/
theorem golayDivide_clmul (n q : Nat) : golayDivide n (clmul n q golayG) = 0 := by
  induction n with
  | zero => rfl
  | succ n ih =>
    have hrest : golayStep n (clmul n q golayG) = 0 := by simp [golayStep, Nat.testBit_lt_two_pow (clmul_lt n q)]
    have hlead : golayStep n (golayG <<< n) = golayG <<< n := if_pos (golayG_testBit_shifted n)
    rw [clmul, golayDivide_xor, golayDivide_succ n (clmul n q golayG), hrest, Nat.xor_zero, ih, Nat.xor_zero]
    split_ifs
    · rw [golayDivide_succ, hlead, Nat.xor_self, golayDivide_zero_right]
    · exact golayDivide_zero_right _

/-- What the division subtracts is a multiple of g(x). -/
theorem exists_clmul_eq_xor_golayDivide (k p : Nat) : ∃ q < 2 ^ k, clmul k q golayG = p ^^^ golayDivide k p := by
  induction k generalizing p with
  | zero => exact ⟨0, by decide, (Nat.xor_self p).symm⟩
  | succ k ih =>
    obtain ⟨q, hq, hclmul⟩ := ih (p ^^^ golayStep k p)
    rw [golayDivide_succ]
    by_cases hbit : p.testBit (11 + k)
    · refine ⟨2 ^ k + q, by rw [Nat.pow_succ]; omega, ?_⟩
      have hlow : clmul k (2 ^ k + q) golayG = clmul k q golayG :=
        clmul_congr _ fun i hi => Nat.testBit_two_pow_add_gt hi q
      rw [clmul, hlow, hclmul, Nat.testBit_two_pow_add_eq, Nat.testBit_lt_two_pow hq, Bool.not_false, if_pos rfl,
        golayStep, if_pos hbit, Nat.xor_comm p, Nat.xor_assoc, Nat.xor_xor_cancel_left]
    · refine ⟨q, hq.trans (Nat.pow_lt_pow_right (by decide) k.lt_succ_self), ?_⟩
      rw [clmul, Nat.testBit_lt_two_pow hq, if_neg (by decide), Nat.zero_xor, hclmul, golayStep, if_neg hbit,
        Nat.xor_zero]

theorem golayMod_xor (p p' : Nat) : golayMod (p ^^^ p') = golayMod p ^^^ golayMod p' := golayDivide_xor 8 p p'

/-- A number with its remainder taken away is a multiple of g(x). -/
theorem golayMultiple_xor_golayMod (p : Nat) : GolayMultiple (p ^^^ golayMod p) := exists_clmul_eq_xor_golayDivide 8 p

theorem golayMultiple_iff (c : Nat) : GolayMultiple c ↔ golayMod c = 0 := by
  constructor
  · rintro ⟨q, -, rfl⟩
    exact golayDivide_clmul 8 q
  · intro hmod
    have hmultiple := golayMultiple_xor_golayMod c
    rwa [hmod, Nat.xor_zero] at hmultiple

/-- Words that differ by a multiple of g(x) are those with the same syndrome (R162). -/
theorem golayMultiple_xor_iff (c e : Nat) : GolayMultiple (c ^^^ e) ↔ golayMod c = golayMod e := by
  rw [golayMultiple_iff, golayMod_xor, Nat.xor_eq_zero_iff]

/-! ### Weights -/

theorem weight_succ (n v : Nat) : weight (n + 1) v = weight n v + bit (v.testBit n) := by
  simp [weight, List.range_succ]

theorem popcount_eq_weight (n v : Nat) : popcount n v = weight n v := by
  induction n with
  | zero => rfl
  | succ n ih =>
    rw [popcount, ih, weight_succ, Nat.add_comm]
    cases v.testBit n <;> rfl

theorem weight_xor_le (n a b : Nat) : weight n (a ^^^ b) ≤ weight n a + weight n b := by
  induction n with
  | zero => exact Nat.zero_le _
  | succ n ih =>
    have hbit : bit ((a ^^^ b).testBit n) ≤ bit (a.testBit n) + bit (b.testBit n) := by
      rw [Nat.testBit_xor]
      cases a.testBit n <;> cases b.testBit n <;> decide
    simp only [weight_succ]
    omega

theorem weight_two_pow_add (n v : Nat) : weight n (2 ^ n + v) = weight n v :=
  congrArg List.sum (List.map_congr_left fun _ hj => by rw [Nat.testBit_two_pow_add_gt (List.mem_range.mp hj)])

theorem weight_succ_of_lt {n v : Nat} (hv : v < 2 ^ n) : weight (n + 1) v = weight n v := by
  rw [weight_succ, Nat.testBit_lt_two_pow hv]
  rfl

theorem weight_succ_two_pow_add {n v : Nat} (hv : v < 2 ^ n) : weight (n + 1) (2 ^ n + v) = weight n v + 1 := by
  rw [weight_succ, weight_two_pow_add, Nat.testBit_two_pow_add_eq, Nat.testBit_lt_two_pow hv]
  rfl

theorem weight_eq_zero_iff {n v : Nat} (hv : v < 2 ^ n) : weight n v = 0 ↔ v = 0 := by
  induction n generalizing v with
  | zero => simpa [weight] using hv
  | succ n ih =>
    rcases Nat.lt_or_ge v (2 ^ n) with hlow | hhigh
    · rw [weight_succ_of_lt hlow, ih hlow]
    · obtain ⟨u, rfl⟩ := Nat.exists_eq_add_of_le hhigh
      rw [weight_succ_two_pow_add (by omega)]
      have := Nat.two_pow_pos n
      omega

/-! ### The decoder's error table -/

/-- A list of the numbers below 2^n with `w` one bits, for each n. -/
def ListsWeight (L : Nat → List Nat) (w : Nat) : Prop := ∀ n e, e ∈ L n ↔ e < 2 ^ n ∧ weight n e = w

/-- The patterns with one more one bit: a highest bit i, and a pattern below it. -/
theorem ListsWeight.succ {L : Nat → List Nat} {w : Nat} (hL : ListsWeight L w) :
    ListsWeight (fun n => (List.range n).flatMap fun i => (L i).map fun e => 2 ^ i + e) (w + 1) := by
  intro n e
  induction n with
  | zero => simp [weight]
  | succ n ih =>
    simp only [List.range_succ, List.flatMap_append, List.mem_append, ih, List.flatMap_singleton, List.mem_map, hL n]
    rcases Nat.lt_or_ge e (2 ^ n) with hlow | hhigh
    · rw [weight_succ_of_lt hlow]
      constructor
      · rintro (⟨-, hw⟩ | ⟨d, -, rfl⟩)
        · exact ⟨by omega, hw⟩
        · omega
      · exact fun ⟨_, hw⟩ => .inl ⟨hlow, hw⟩
    · obtain ⟨d, rfl⟩ := Nat.exists_eq_add_of_le hhigh
      constructor
      · rintro (⟨hlt, -⟩ | ⟨d', ⟨hd, hw⟩, heq⟩)
        · omega
        · obtain rfl := Nat.add_left_cancel heq
          exact ⟨by omega, by rw [weight_succ_two_pow_add hd, hw]⟩
      · rintro ⟨hlt, hw⟩
        have hd : d < 2 ^ n := by omega
        rw [weight_succ_two_pow_add hd] at hw
        exact .inr ⟨d, ⟨hd, by omega⟩, rfl⟩

theorem listsWeight_zero : ListsWeight (fun _ => [0]) 0 := fun n e => by
  rw [List.mem_singleton]
  refine ⟨?_, fun ⟨he, hw⟩ => (weight_eq_zero_iff he).mp hw⟩
  rintro rfl
  exact ⟨Nat.two_pow_pos n, (weight_eq_zero_iff (Nat.two_pow_pos n)).mpr rfl⟩

theorem golaySingles_listsWeight : ListsWeight golaySingles 1 := by
  have hsingles : golaySingles = fun n => (List.range n).flatMap fun i => [0].map fun e => 2 ^ i + e :=
    funext fun n => by simp [golaySingles, List.map_eq_flatMap]
  rw [hsingles]
  exact listsWeight_zero.succ

theorem golayPairs_listsWeight : ListsWeight golayPairs 2 := golaySingles_listsWeight.succ

theorem golayTriples_listsWeight : ListsWeight golayTriples 3 := golayPairs_listsWeight.succ

/-- The table's patterns are the 19-bit numbers with at most three one bits (R162). -/
theorem mem_golayPatterns (e : Nat) : e ∈ golayPatterns ↔ e < 2 ^ 19 ∧ weight 19 e ≤ 3 := by
  have hzero := listsWeight_zero 19 e
  rw [List.mem_singleton] at hzero
  rw [golayPatterns, List.mem_cons, List.mem_append, List.mem_append, hzero, golaySingles_listsWeight,
    golayPairs_listsWeight, golayTriples_listsWeight]
  omega

/-! ### The code's distance -/

/-- The 256 codewords, one after another: each but 0 has at least seven one bits (R162). -/
theorem weight_clmul_golayG : ∀ q < 256, clmul 8 q golayG = 0 ∨ 7 ≤ weight 19 (clmul 8 q golayG) := by
  decide +kernel

/-- Two patterns of at most three errors have different syndromes (R162). -/
theorem golayMod_inj {e e' : Nat} (he : weight 19 e ≤ 3) (he' : weight 19 e' ≤ 3) (h : golayMod e = golayMod e') :
    e = e' := by
  obtain ⟨q, hq, hclmul⟩ := (golayMultiple_xor_iff e e').mpr h
  have hdistance : e ^^^ e' = 0 ∨ 7 ≤ weight 19 (e ^^^ e') := hclmul ▸ weight_clmul_golayG q hq
  have hle := weight_xor_le 19 e e'
  exact Nat.xor_eq_zero_iff.mp (hdistance.resolve_right (by omega))

/-! ### Correction -/

/-- A word within three errors of a multiple of g(x) (R164). -/
theorem golayCorrect_of_error {c e : Nat} (he : e < 2 ^ 19) (hw : weight 19 e ≤ 3) (hc : GolayMultiple (c ^^^ e)) :
    golayCorrect c = (if weight 19 e = 0 then .clean else .corrected, weight 19 e, c ^^^ e) := by
  rw [golayMultiple_xor_iff] at hc
  have hzero : golayMod 0 = 0 := golayDivide_zero_right 8
  rcases golayCorrect_cases c with ⟨hclean, h⟩ | ⟨e', hmem, hdirty, hsyn, h⟩ | ⟨-, hnone, -⟩
  · obtain rfl : e = 0 := golayMod_inj hw (by decide) (by rw [← hc, hclean, hzero])
    rw [h, Nat.xor_zero]
    rfl
  · obtain ⟨-, hw'⟩ := (mem_golayPatterns e').mp hmem
    obtain rfl : e' = e := golayMod_inj hw' hw (hsyn.trans hc)
    have hne : weight 19 e' ≠ 0 := fun h0 => hdirty (by rw [hc, (weight_eq_zero_iff he).mp h0, hzero])
    rw [h, if_neg hne, popcount_eq_weight]
  · exact absurd hc.symm (hnone e ((mem_golayPatterns e).mpr ⟨he, hw⟩))

/-- A word further than three errors from every multiple of g(x) (R164). -/
theorem golayCorrect_of_far {c : Nat} (h : ∀ e < 2 ^ 19, weight 19 e ≤ 3 → ¬ GolayMultiple (c ^^^ e)) :
    golayCorrect c = (.uncorrectable, 0, c) := by
  simp only [golayMultiple_xor_iff] at h
  rcases golayCorrect_cases c with ⟨hclean, -⟩ | ⟨e, hmem, -, hsyn, -⟩ | ⟨-, -, hcorrect⟩
  · exact absurd hclean (h 0 (by decide) (by decide))
  · obtain ⟨he, hw⟩ := (mem_golayPatterns e).mp hmem
    exact absurd hsyn.symm (h e he hw)
  · exact hcorrect

/-! ### Stream bits as a number -/

theorem numberOf_succ (d : Nat → Bool) (n : Nat) : numberOf d (n + 1) = Nat.bit (d n) (numberOf d n) := by
  rw [numberOf, Nat.bit_val]
  cases d n <;> rfl

theorem numberOf_lt (d : Nat → Bool) (n : Nat) : numberOf d n < 2 ^ n := by
  induction n with
  | zero => exact Nat.one_pos
  | succ n ih =>
    rw [numberOf_succ]
    exact Nat.bit_lt_two_pow_succ_iff.mpr ih

/-- The first bit is the most significant one (R162). -/
theorem testBit_numberOf (d : Nat → Bool) {n i : Nat} (hi : i < n) : (numberOf d n).testBit i = d (n - 1 - i) := by
  induction n generalizing i with
  | zero => omega
  | succ n ih =>
    rw [numberOf_succ]
    cases i with
    | zero => exact Nat.testBit_bit_zero _ _
    | succ i =>
      rw [Nat.testBit_bit_succ, ih (by omega)]
      congr 1
      omega

theorem numberOf_eq {d : Nat → Bool} {n v : Nat} (hv : v < 2 ^ n) (h : ∀ j < n, d j = v.testBit (n - 1 - j)) :
    numberOf d n = v := by
  refine Nat.eq_of_testBit_eq fun i => ?_
  by_cases hi : i < n
  · rw [testBit_numberOf d hi, h _ (by omega)]
    congr 1
    omega
  · have hpow := Nat.pow_le_pow_right (n := 2) (by decide) (Nat.le_of_not_lt hi)
    rw [Nat.testBit_lt_two_pow ((numberOf_lt d n).trans_le hpow), Nat.testBit_lt_two_pow (hv.trans_le hpow)]

theorem weight_bit (n : Nat) (b : Bool) (v : Nat) : weight (n + 1) (Nat.bit b v) = bit b + weight n v := by
  simp [weight, List.range_succ_eq_map, Function.comp_def, Nat.testBit_bit_succ]

/-- The weight of a number is the count of its stream bits that are 1. -/
theorem weight_numberOf (d : Nat → Bool) (n : Nat) : weight n (numberOf d n) = (List.range n).countP d := by
  induction n with
  | zero => rfl
  | succ n ih =>
    rw [numberOf_succ, weight_bit, ih, List.range_succ, List.countP_append, List.countP_singleton, Nat.add_comm]
    rfl

/-- The error pattern of a list of positions has as many one bits as the list has positions. -/
theorem weight_numberOf_mem {errs : List Nat} {n : Nat} (hnodup : errs.Nodup) (hlt : ∀ e ∈ errs, e < n) :
    weight n (numberOf (fun j => decide (j ∈ errs)) n) = errs.length := by
  rw [weight_numberOf, List.countP_eq_length_filter]
  refine ((List.perm_ext_iff_of_nodup (List.nodup_range.filter _) hnodup).mpr fun e => ?_).length_eq
  rw [List.mem_filter, List.mem_range, decide_eq_true_iff]
  exact and_iff_right_of_imp (hlt e)

/-- The received word is the number of the first 19 stream bits (R162). -/
theorem golayInput_eq_numberOf (s : State) : golayInput s = numberOf s.ibuf.bit 19 := by
  have hlt : golayInput s < 2 ^ 19 := by
    refine Nat.or_lt_two_pow (Nat.or_lt_two_pow ?_ ?_) ?_
    · exact Nat.shiftLeft_lt (n := 8) (s.ibuf.read 0).isLt
    · exact (Nat.shiftLeft_lt (n := 8) (m := 3) (s.ibuf.read 1).isLt).trans (by decide)
    · exact (Nat.shiftRight_le _ _).trans_lt ((s.ibuf.read 2).isLt.trans (by decide))
  refine (numberOf_eq hlt fun j hj => ?_).symm
  simp only [golayInput, golayCode19, Nat.testBit_or, Nat.testBit_shiftLeft, Nat.testBit_shiftRight,
    BitVec.testBit_toNat, Memory.bit]
  rcases (by omega : j < 8 ∨ 8 ≤ j ∧ j < 16 ∨ 16 ≤ j) with h0 | ⟨h1, h1'⟩ | h2
  · rw [show j / 8 = 0 by omega, show 7 - j % 8 = 19 - 1 - j - 11 by omega,
      decide_eq_true (show 19 - 1 - j ≥ 11 by omega), BitVec.getLsbD_of_ge (s.ibuf.read 1) _ (by omega),
      BitVec.getLsbD_of_ge (s.ibuf.read 2) _ (by omega)]
    simp
  · rw [show j / 8 = 1 by omega, show 7 - j % 8 = 19 - 1 - j - 3 by omega,
      decide_eq_false (show ¬ 19 - 1 - j ≥ 11 by omega), decide_eq_true (show 19 - 1 - j ≥ 3 by omega),
      BitVec.getLsbD_of_ge (s.ibuf.read 2) _ (by omega)]
    simp
  · rw [show j / 8 = 2 by omega, show 7 - j % 8 = 5 + (19 - 1 - j) by omega,
      decide_eq_false (show ¬ 19 - 1 - j ≥ 11 by omega), decide_eq_false (show ¬ 19 - 1 - j ≥ 3 by omega)]
    simp

/-! ### What each command does -/

/-- The check bits of a data byte (R161). -/
def golayCheck (v : Nat) : Nat := golayMod (v <<< 11)

theorem golayCheck_lt {v : Nat} (hv : v < 2 ^ 8) : golayCheck v < 2 ^ 11 :=
  golayDivide_lt (k := 8) (Nat.shiftLeft_lt (n := 8) (m := 11) hv)

/-- W19 is the data byte followed by the check bits (R161). -/
theorem golayW19_eq {v : Nat} (hv : v < 2 ^ 8) : golayW19 v = v * 2048 + golayCheck v := by
  rw [golayW19, ← golayCheck, ← Nat.shiftLeft_add_eq_or_of_lt (golayCheck_lt hv), Nat.shiftLeft_eq]

theorem golayW19_lt {v : Nat} (hv : v < 2 ^ 8) : golayW19 v < 2 ^ 19 := by
  have hcheck := golayCheck_lt hv
  rw [golayW19_eq hv]
  omega

theorem golayW19_multiple {v : Nat} (hv : v < 2 ^ 8) : GolayMultiple (golayW19 v) := by
  have hor : golayW19 v = v <<< 11 ^^^ golayCheck v := Nat.eq_of_testBit_eq fun i => by
    rw [golayW19, ← golayCheck, Nat.testBit_or, Nat.testBit_xor, Nat.testBit_shiftLeft]
    by_cases hi : 11 ≤ i
    · have hcheck := Nat.testBit_lt_two_pow ((golayCheck_lt hv).trans_le (Nat.pow_le_pow_right (by decide) hi))
      rw [hcheck, Bool.or_false, Bool.xor_false]
    · simp [hi]
  exact hor ▸ golayMultiple_xor_golayMod _

/-- The data bits of W19 (R160). -/
theorem testBit_golayW19 {v i : Nat} (hv : v < 2 ^ 8) (hi : i < 8) :
    (golayW19 v).testBit (18 - i) = v.testBit (7 - i) := by
  rw [golayW19_eq hv, Nat.mul_comm, Nat.testBit_two_pow_mul_add v (golayCheck_lt hv), if_neg (by omega)]
  congr 1
  omega

/-- The state after GOLAY_ENC (R163). -/
def golayEncoded (s : State) : State := setResult .ok 0 (out (natBits 20 (golayEncode (s.ibuf.read 0).toNat)) s)

theorem exec_golayEnc (s : State) : exec .golayEnc s = .next (golayEncoded s) := rfl

theorem bitAt_natBits (v : Nat) {n i : Nat} (hi : i < n) : bitAt (natBits n v) i = v.testBit (n - 1 - i) := by
  simp [bitAt, natBits, hi]

/-- W20 is W19 and the parity of its weight (R161). -/
theorem golayEncode_eq_bit (v : Nat) :
    golayEncode v = Nat.bit (decide (weight 19 (golayW19 v) % 2 = 1)) (golayW19 v) := by
  rw [golayEncode, popcount_eq_weight, ← Nat.shiftLeft_add_eq_or_of_lt (Nat.mod_lt _ (by decide)), Nat.shiftLeft_eq,
    Nat.bit_val, Nat.mul_comm]
  rcases Nat.mod_two_eq_zero_or_one (weight 19 (golayW19 v)) with h | h <;> simp [h]

theorem golayEncoded_outputIs (s : State) :
    OutputIs (golayEncoded s) 20 fun i =>
      if i < 19 then (golayW19 (s.ibuf.read 0).toNat).testBit (18 - i)
      else decide (weight 19 (golayW19 (s.ibuf.read 0).toNat) % 2 = 1) := by
  refine setResult_out_outputIs s (natBits_length _ _) fun i hi => ?_
  rw [bitAt_natBits _ hi, golayEncode_eq_bit]
  split_ifs with hdata
  · rw [show 20 - 1 - i = (18 - i) + 1 by omega, Nat.testBit_bit_succ]
  · rw [show 20 - 1 - i = 0 by omega, Nat.testBit_bit_zero]

theorem golayEncoded_bit (s : State) {j : Nat} (hj : j < 19) :
    (golayEncoded s).obuf.bit j = (golayW19 (s.ibuf.read 0).toNat).testBit (18 - j) := by
  rw [bit_of_outputIs (golayEncoded_outputIs s) (by decide) (by omega), if_pos hj]

/-- Settles O28: the check bits are the remainder of the shifted data byte. -/
theorem golayEncodeEffect : Obligations.GolayEncodeEffect := by
  refine ⟨isF0_of_isBare (i := .golayEnc) rfl, fun s => ?_⟩
  have hv := (s.ibuf.read 0).isLt
  have hmultiple := golayW19_multiple hv
  have hout := golayEncoded_outputIs s
  rw [golayW19_eq hv] at hmultiple hout
  exact ⟨_, _, exec_golayEnc s, ⟨rfl, rfl⟩, setResult_out_codecFrame .., golayCheck_lt hv, hmultiple, hout⟩

/-- The state after GOLAY_DEC, by what `golayCorrect` answers (R164). -/
def golayDecoded (answer : ResultCode × Nat × Nat) (s : State) : State :=
  setResult answer.1 (BitVec.ofNat 8 answer.2.1) (outBytes [BitVec.ofNat 8 (answer.2.2 >>> 11)] s)

theorem exec_golayDec (s : State) :
    exec .golayDec s = .next (golayDecoded (golayCorrect (numberOf s.ibuf.bit 19)) s) := by
  rw [← golayInput_eq_numberOf]
  rfl

/-- The output is bits 18 to 11 of the corrected word (R164). -/
theorem golayDecoded_effect (r : ResultCode) (k x : Nat) (s : State) {f : Nat → Bool}
    (hbits : ∀ i < 8, x.testBit (18 - i) = f i) :
    Reports (golayDecoded (r, k, x) s) r k ∧ OutputIs (golayDecoded (r, k, x) s) 8 f := by
  refine ⟨⟨rfl, rfl⟩, setResult_out_outputIs s (by simp) fun i hi => ?_⟩
  rw [bitAt, bytesBits_getD, Nat.div_eq_of_lt hi, Nat.mod_eq_of_lt hi, List.getD_cons_zero, BitVec.getLsbD_ofNat,
    Nat.testBit_shiftRight, show 11 + (7 - i) = 18 - i by omega, decide_eq_true (by omega), Bool.true_and, hbits i hi]

/-- The data bits of the received word with the pattern `e` undone. -/
theorem testBit_received_xor (d : Nat → Bool) (e : Nat) {i : Nat} (hi : i < 8) :
    (numberOf d 19 ^^^ e).testBit (18 - i) = (d i ^^ e.testBit (18 - i)) := by
  rw [Nat.testBit_xor, testBit_numberOf d (by omega), show 19 - 1 - (18 - i) = i by omega]

/-- GOLAY_DEC on a word within three errors of a multiple of g(x) (R164). -/
theorem golayDecoded_of_error (s : State) {e : Nat} (he : e < 2 ^ 19) (hw : weight 19 e ≤ 3)
    (hmultiple : GolayMultiple (numberOf s.ibuf.bit 19 ^^^ e)) :
    Reports (golayDecoded (golayCorrect (numberOf s.ibuf.bit 19)) s)
      (if weight 19 e = 0 then .clean else .corrected) (weight 19 e) ∧
    OutputIs (golayDecoded (golayCorrect (numberOf s.ibuf.bit 19)) s) 8
      fun i => s.ibuf.bit i ^^ e.testBit (18 - i) := by
  rw [golayCorrect_of_error he hw hmultiple]
  exact golayDecoded_effect _ _ _ s fun _ => testBit_received_xor s.ibuf.bit e

/-- Settles O29: the clean case is the one of no error. -/
theorem golayDecodeEffect : Obligations.GolayDecodeEffect := by
  refine ⟨isF0_of_isBare (i := .golayDec) rfl,
    fun s => ⟨_, exec_golayDec s, setResult_out_codecFrame .., ?clean, ?corrected, ?far⟩⟩
  case clean =>
    intro hmultiple
    obtain ⟨hreports, hout⟩ := golayDecoded_of_error s (e := 0) (by decide) (by decide) (by rwa [Nat.xor_zero])
    exact ⟨hreports, outputIs_congr hout fun i _ => by rw [Nat.zero_testBit, Bool.xor_false]⟩
  case corrected =>
    intro e he hpos hw hmultiple
    have hdecoded := golayDecoded_of_error s he hw hmultiple
    rwa [if_neg (Nat.ne_of_gt hpos)] at hdecoded
  case far =>
    intro hfar
    rw [golayCorrect_of_far hfar]
    refine golayDecoded_effect _ _ _ s fun i hi => ?_
    simpa using testBit_received_xor s.ibuf.bit 0 hi

/-! ### Errors in an encoded byte -/

/-- What GOLAY_DEC receives: W19 of the byte, with the flipped bits as the error pattern. -/
theorem received_eq_golayW19_xor {s u : State} {err : Nat → Bool}
    (hu : ∀ j < 19, u.ibuf.bit j = ((golayEncoded s).obuf.bit j ^^ err j)) :
    numberOf u.ibuf.bit 19 = golayW19 (s.ibuf.read 0).toNat ^^^ numberOf err 19 := by
  have hv := (s.ibuf.read 0).isLt
  refine numberOf_eq (Nat.xor_lt_two_pow (golayW19_lt hv) (numberOf_lt err 19)) fun j hj => ?_
  rw [hu j hj, golayEncoded_bit s hj, Nat.testBit_xor, testBit_numberOf err (by omega),
    show 19 - 1 - (19 - 1 - j) = j by omega]

/-- Settles O30: the positions of the errors are a pattern of at most three one bits. -/
theorem golayCorrectsThreeErrors : Obligations.GolayCorrectsThreeErrors := by
  intro s t u errs ht hnodup hlen hlt hu
  obtain rfl := next_inj.mp (ht.symm.trans (exec_golayEnc s))
  have hv := (s.ibuf.read 0).isLt
  have hweight := weight_numberOf_mem hnodup hlt
  have hword := received_eq_golayW19_xor hu
  obtain ⟨hreports, hout⟩ := golayDecoded_of_error u (numberOf_lt _ 19) (hweight.trans_le hlen)
    (by rw [hword, Nat.xor_xor_cancel_right]; exact golayW19_multiple hv)
  simp only [hweight, List.length_eq_zero_iff] at hreports
  refine ⟨_, exec_golayDec u, hreports, outputIs_congr hout fun i hi => ?_⟩
  rw [hu i (by omega), golayEncoded_bit s (by omega), testBit_golayW19 hv hi, testBit_numberOf _ (by omega),
    show 19 - 1 - (18 - i) = i by omega, Bool.xor_assoc, Bool.xor_self, Bool.xor_false, BitVec.testBit_toNat,
    Memory.bit, Nat.div_eq_of_lt hi, Nat.mod_eq_of_lt hi]

end Sys2Proof.Machine
end

section
/-! PROOFS. The lines of the BPTC matrix (44_bptc.md R180, R183): the data rows and the columns as two families of
disjoint lines, what a sweep over a family does to each of its lines, and that a sweep over a codeword with errors does
to the errors what it does to them alone. -/

namespace Sys2Proof.Machine

open Sys2Proof.Claims

theorem syndromeOf_zero_word (k : Nat) (eqs : List (List Nat)) : syndromeOf k eqs (fun _ => false) = 0 := by
  simpa using syndromeOf_xor k eqs (fun _ => false) fun _ => false

/-! ### Families of lines -/

/-- A family of lines of the matrix: each is a word of `code`, whose syndrome table is `table`, and bit i of line l
stands at `pos l i`. -/
structure LineFamily where
  code : HammingCode
  table : List (Nat × Nat)
  count : Nat
  pos : Nat → Nat → Nat

/-- The nine data rows (R180). -/
def LineFamily.dataRows : LineFamily := ⟨h15113b, tableB, 9, fun r i => 15 * r + 1 + i⟩

/-- The fifteen columns (R180). -/
def LineFamily.columns : LineFamily := ⟨h1393, table13, 15, fun c a => c + 1 + 15 * a⟩

namespace LineFamily

/-- No matrix position is on two lines of the family, and none is m[0]. -/
structure Valid (L : LineFamily) : Prop where
  code_valid : L.code.Valid
  table_perm : L.code.columnTable.Perm L.table
  pos_inj : ∀ {l l' i i'}, l < L.count → l' < L.count → i < L.code.n → i' < L.code.n →
    L.pos l i = L.pos l' i' → l = l' ∧ i = i'
  pos_bounds : ∀ {l i}, l < L.count → i < L.code.n → 0 < L.pos l i ∧ L.pos l i < 196

theorem dataRows_valid : dataRows.Valid where
  code_valid := h15113b_valid
  table_perm := columnTable_h15113b
  pos_inj := fun {l l' i i'} _ _ hi hi' h => by
    change i < 15 at hi
    change i' < 15 at hi'
    change 15 * l + 1 + i = 15 * l' + 1 + i' at h
    omega
  pos_bounds := fun {l i} hl hi => by
    change l < 9 at hl
    change i < 15 at hi
    change 0 < 15 * l + 1 + i ∧ 15 * l + 1 + i < 196
    omega

theorem columns_valid : columns.Valid where
  code_valid := h1393_valid
  table_perm := columnTable_h1393
  pos_inj := fun {l l' i i'} hl hl' _ _ h => by
    change l < 15 at hl
    change l' < 15 at hl'
    change l + 1 + 15 * i = l' + 1 + 15 * i' at h
    omega
  pos_bounds := fun {l i} hl hi => by
    change l < 15 at hl
    change i < 13 at hi
    change 0 < l + 1 + 15 * i ∧ l + 1 + 15 * i < 196
    omega

/-- Row r meets column c in bit c of the row and bit r of the column. -/
theorem columns_pos_eq (c r : Nat) : columns.pos c r = dataRows.pos r c := by
  change c + 1 + 15 * r = 15 * r + 1 + c
  omega

variable (L : LineFamily)

/-- The word that stands on line l of the matrix m. -/
def word (m : Nat → Bool) (l : Nat) : Nat → Bool := fun i => m (L.pos l i)

/-- The syndrome of a word of the family's code. -/
def syndrome (d : Nat → Bool) : Nat := syndromeOf L.code.k L.code.eqs d

/-- Every line of the family is a codeword. -/
def Clean (m : Nat → Bool) : Prop := ∀ l < L.count, L.syndrome (L.word m l) = 0

/-- No line of the family has a 1. -/
def Zero (e : Nat → Bool) : Prop := ∀ l < L.count, ∀ i < L.code.n, e (L.pos l i) = false

/-- The word after the correction of R132. -/
def fixed (d : Nat → Bool) (i : Nat) : Bool := d i ^^ decide (namedBit L.table (L.syndrome d) = some i)

/-- R132 applied to line l of the matrix. -/
def fix (mf : (Nat → Bool) × Bool) (l : Nat) : (Nat → Bool) × Bool :=
  fixLine L.code.k L.code.eqs L.table (L.pos l) mf

/-- R132 applied to the first k lines, one after another. -/
def sweep (k : Nat) (mf : (Nat → Bool) × Bool) : (Nat → Bool) × Bool := (List.range k).foldl L.fix mf

theorem sweep_succ (k : Nat) (mf : (Nat → Bool) × Bool) : L.sweep (k + 1) mf = L.fix (L.sweep k mf) k := by
  simp [sweep, List.range_succ]

theorem fix_of_namedBit_none {mf : (Nat → Bool) × Bool} {l : Nat}
    (h : namedBit L.table (L.syndrome (L.word mf.1 l)) = none) : L.fix mf l = mf := by
  unfold fix fixLine
  split
  next b hb => cases h.symm.trans hb
  · rfl

theorem fix_of_namedBit_some {mf : (Nat → Bool) × Bool} {l b : Nat}
    (h : namedBit L.table (L.syndrome (L.word mf.1 l)) = some b) :
    L.fix mf l = (fun a => mf.1 a ^^ decide (a = L.pos l b), true) := by
  unfold fix fixLine
  split
  next b' hb =>
    cases h.symm.trans hb
    rfl
  next hb => cases h.symm.trans hb

/-- A sweep that does not set `fixing` changes nothing. -/
theorem sweep_of_not_fixing {k : Nat} {mf : (Nat → Bool) × Bool} (h : (L.sweep k mf).2 = false) :
    L.sweep k mf = mf := by
  induction k with
  | zero => rfl
  | succ k ih =>
    rw [sweep_succ] at h ⊢
    cases hbit : namedBit L.table (L.syndrome (L.word (L.sweep k mf).1 k)) with
    | none =>
      rw [L.fix_of_namedBit_none hbit] at h ⊢
      exact ih h
    | some b =>
      rw [L.fix_of_namedBit_some hbit] at h
      cases h

end LineFamily

/-! ### Rewriting the lines of a family -/

/-- `F` computes the bits of a word of length n from those bits alone. -/
def IsWordMap (n : Nat) (F : (Nat → Bool) → Nat → Bool) : Prop :=
  ∀ f g : Nat → Bool, (∀ j < n, f j = g j) → ∀ i < n, F f i = F g i

namespace LineFamily

/-- From m to m' each line that `P` holds of is rewritten by `F`, and nothing else changes. -/
structure Rewrites (L : LineFamily) (F : (Nat → Bool) → Nat → Bool) (P : Nat → Prop) (m m' : Nat → Bool) : Prop where
  on_lines : ∀ l, P l → ∀ i < L.code.n, m' (L.pos l i) = F (L.word m l) i
  elsewhere : ∀ a, (∀ l, P l → ∀ i < L.code.n, a ≠ L.pos l i) → m' a = m a

variable {L : LineFamily} (hL : L.Valid)
include hL

/-- The lines are disjoint, so the next line still holds what it held at first. -/
theorem Valid.rewrites_succ {F : (Nat → Bool) → Nat → Bool} (hF : IsWordMap L.code.n F) {k : Nat} (hk : k < L.count)
    {m m' m'' : Nat → Bool} (hfirst : L.Rewrites F (· < k) m m') (hnext : L.Rewrites F (· = k) m' m'') :
    L.Rewrites F (· < k + 1) m m'' where
  on_lines := fun l hl i hi => by
    rcases Nat.lt_succ_iff_lt_or_eq.mp hl with hlk | rfl
    · rw [hnext.elsewhere, hfirst.on_lines l hlk i hi]
      rintro _ rfl i' hi' hpos
      obtain ⟨rfl, -⟩ := hL.pos_inj (hlk.trans hk) hk hi hi' hpos
      exact Nat.lt_irrefl l hlk
    · rw [hnext.on_lines l rfl i hi]
      refine hF _ _ (fun j hj => hfirst.elsewhere _ fun l' hl' i' hi' hpos => ?_) i hi
      obtain ⟨rfl, -⟩ := hL.pos_inj hk (hl'.trans hk) hj hi' hpos
      exact Nat.lt_irrefl l hl'
  elsewhere := fun a ha => by
    rw [hnext.elsewhere a fun l hl => ha l (hl ▸ Nat.lt_succ_self k),
      hfirst.elsewhere a fun l hl => ha l (Nat.lt_succ_of_lt hl)]

omit hL in
theorem rewrites_none (F : (Nat → Bool) → Nat → Bool) (m : Nat → Bool) : L.Rewrites F (· < 0) m m :=
  ⟨fun l hl => absurd hl (Nat.not_lt_zero l), fun _ _ => rfl⟩

/-! ### The correction of a line -/

/-- The table names a bit for exactly the syndromes that are columns (R132). -/
theorem Valid.namedBit_eq_some_iff {x b : Nat} :
    namedBit L.table x = some b ↔ b < L.code.n ∧ L.code.col b = x := by
  have hmem : ∀ y c, (y, c) ∈ L.table ↔ c < L.code.n ∧ L.code.col c = y := fun y c => by
    rw [← hL.table_perm.mem_iff, L.code.mem_columnTable]
  rw [namedBit, Option.map_eq_some_iff]
  constructor
  · rintro ⟨⟨y, c⟩, hfind, rfl⟩
    obtain rfl : y = x := by simpa using List.find?_some hfind
    exact (hmem y c).mp (List.mem_of_find?_eq_some hfind)
  · rintro ⟨hb, hcol⟩
    cases hfind : L.table.find? fun p => p.1 == x with
    | none => exact absurd (List.find?_eq_none.mp hfind _ ((hmem x b).mpr ⟨hb, hcol⟩)) (by simp)
    | some p =>
      obtain ⟨y, c⟩ := p
      obtain rfl : y = x := by simpa using List.find?_some hfind
      obtain ⟨hc, hcol'⟩ := (hmem y c).mp (List.mem_of_find?_eq_some hfind)
      exact ⟨(y, c), rfl, hL.code_valid.col_inj hc hb (hcol'.trans hcol.symm)⟩

theorem Valid.namedBit_eq_none_iff {x : Nat} : namedBit L.table x = none ↔ ∀ b < L.code.n, L.code.col b ≠ x := by
  simp only [Option.eq_none_iff_forall_ne_some, ne_eq, hL.namedBit_eq_some_iff, not_and]

theorem Valid.namedBit_zero : namedBit L.table 0 = none :=
  hL.namedBit_eq_none_iff.mpr fun _ => hL.code_valid.col_ne_zero

theorem Valid.fix_of_syndrome_zero {mf : (Nat → Bool) × Bool} {l : Nat} (h : L.syndrome (L.word mf.1 l) = 0) :
    L.fix mf l = mf :=
  L.fix_of_namedBit_none (h ▸ hL.namedBit_zero)

theorem Valid.syndrome_congr {f g : Nat → Bool} (h : ∀ j < L.code.n, f j = g j) : L.syndrome f = L.syndrome g :=
  hL.code_valid.syndromeOf_congr h

theorem Valid.fixed_isWordMap : IsWordMap L.code.n L.fixed := fun f g h i hi => by
  rw [fixed, fixed, hL.syndrome_congr h, h i hi]

/-- The correction undoes a single error: a word with at most one 1 becomes the zero word. -/
theorem Valid.fixed_of_atMostOne {d : Nat → Bool}
    (h : ∀ i < L.code.n, ∀ j < L.code.n, d i = true → d j = true → i = j) {i : Nat} (hi : i < L.code.n) :
    L.fixed d i = false := by
  by_cases hone : ∃ j < L.code.n, d j = true
  · obtain ⟨j, hj, hdj⟩ := hone
    have hd : ∀ b < L.code.n, d b = decide (b = j) := fun b hb => by
      rw [Bool.eq_iff_iff, decide_eq_true_iff]
      exact ⟨fun hdb => h b hb j hj hdb hdj, fun hbj => hbj ▸ hdj⟩
    have hsyn : L.syndrome d = L.code.col j := (hL.syndrome_congr hd).trans (hL.code_valid.syndromeOf_single j)
    rw [fixed, hsyn, hL.namedBit_eq_some_iff.mpr ⟨hj, rfl⟩, hd i hi]
    simp [eq_comm]
  · have hd : ∀ b < L.code.n, d b = false := fun b hb => Bool.eq_false_iff.mpr fun hdb => hone ⟨b, hb, hdb⟩
    have hsyn : L.syndrome d = 0 := (hL.syndrome_congr hd).trans (syndromeOf_zero_word _ _)
    rw [fixed, hsyn, hL.namedBit_zero, hd i hi]
    rfl

/-- One line corrected. -/
theorem Valid.fix_rewrites {l : Nat} (hl : l < L.count) (mf : (Nat → Bool) × Bool) :
    L.Rewrites L.fixed (· = l) mf.1 (L.fix mf l).1 := by
  cases hbit : namedBit L.table (L.syndrome (L.word mf.1 l)) with
  | none =>
    rw [L.fix_of_namedBit_none hbit]
    refine ⟨?_, fun _ _ => rfl⟩
    rintro _ rfl i -
    simp [fixed, hbit, word]
  | some b =>
    obtain ⟨hb, -⟩ := hL.namedBit_eq_some_iff.mp hbit
    rw [L.fix_of_namedBit_some hbit]
    refine ⟨?_, fun a ha => ?_⟩
    · rintro l rfl i hi
      have hpos : L.pos l i = L.pos l b ↔ b = i :=
        ⟨fun h => (hL.pos_inj hl hl hi hb h).2.symm, fun h => h ▸ rfl⟩
      simp [fixed, hbit, word, hpos]
    · simp [ha l rfl b hb]

/-! ### Sweeps -/

/-- A sweep corrects every line on its own. -/
theorem Valid.sweep_rewrites {k : Nat} (hk : k ≤ L.count) (mf : (Nat → Bool) × Bool) :
    L.Rewrites L.fixed (· < k) mf.1 (L.sweep k mf).1 := by
  induction k with
  | zero => exact rewrites_none _ _
  | succ k ih =>
    rw [sweep_succ]
    exact hL.rewrites_succ hL.fixed_isWordMap hk (ih (Nat.le_of_succ_le hk)) (hL.fix_rewrites hk _)

/-- A sweep over codewords changes nothing and does not set `fixing`. -/
theorem Valid.sweep_of_clean {k : Nat} (hk : k ≤ L.count) {mf : (Nat → Bool) × Bool} (h : L.Clean mf.1) :
    L.sweep k mf = mf := by
  induction k with
  | zero => rfl
  | succ k ih =>
    rw [sweep_succ, ih (Nat.le_of_succ_le hk)]
    exact hL.fix_of_syndrome_zero (h k hk)

/-- A line on which every error is alone is free of errors after the sweep. -/
theorem Valid.sweep_line_zero {mf : (Nat → Bool) × Bool} {l : Nat} (hl : l < L.count)
    (h : ∀ i < L.code.n, ∀ j < L.code.n, mf.1 (L.pos l i) = true → mf.1 (L.pos l j) = true → i = j) {i : Nat}
    (hi : i < L.code.n) : (L.sweep L.count mf).1 (L.pos l i) = false := by
  rw [(hL.sweep_rewrites (le_refl _) mf).on_lines l hl i hi]
  exact hL.fixed_of_atMostOne h hi

theorem Valid.clean_of_zero {e : Nat → Bool} (h : L.Zero e) : L.Clean e := fun l hl =>
  (hL.syndrome_congr (h l hl)).trans (syndromeOf_zero_word _ _)

end LineFamily

/-! ### Errors in a codeword -/

/-- The matrix `w` with the errors `e.1` in it; `fixing` as in `e`. -/
def withErrors (w : Nat → Bool) (e : (Nat → Bool) × Bool) : (Nat → Bool) × Bool := (fun a => w a ^^ e.1 a, e.2)

namespace LineFamily

variable {L : LineFamily} {w : Nat → Bool}

theorem syndrome_withErrors (hw : L.Clean w) {l : Nat} (hl : l < L.count) (e : (Nat → Bool) × Bool) :
    L.syndrome (L.word (withErrors w e).1 l) = L.syndrome (L.word e.1 l) := by
  have hxor := syndromeOf_xor L.code.k L.code.eqs (L.word w l) (L.word e.1 l)
  have hzero : syndromeOf L.code.k L.code.eqs (L.word w l) = 0 := hw l hl
  rwa [hzero, Nat.zero_xor] at hxor

theorem clean_withErrors (hw : L.Clean w) (e : (Nat → Bool) × Bool) : L.Clean (withErrors w e).1 ↔ L.Clean e.1 :=
  forall₂_congr fun _ hl => by rw [syndrome_withErrors hw hl]

theorem fix_withErrors (hw : L.Clean w) {l : Nat} (hl : l < L.count) (e : (Nat → Bool) × Bool) :
    L.fix (withErrors w e) l = withErrors w (L.fix e l) := by
  have hsyn := syndrome_withErrors hw hl e
  cases hbit : namedBit L.table (L.syndrome (L.word e.1 l)) with
  | none => rw [L.fix_of_namedBit_none hbit, L.fix_of_namedBit_none (by rw [hsyn, hbit])]
  | some b =>
    rw [L.fix_of_namedBit_some hbit, L.fix_of_namedBit_some (by rw [hsyn, hbit])]
    simp [withErrors]

theorem sweep_withErrors (hw : L.Clean w) {k : Nat} (hk : k ≤ L.count) (e : (Nat → Bool) × Bool) :
    L.sweep k (withErrors w e) = withErrors w (L.sweep k e) := by
  induction k with
  | zero => rfl
  | succ k ih => rw [sweep_succ, sweep_succ, ih (Nat.le_of_succ_le hk), fix_withErrors hw hk]

end LineFamily

/-! ### Passes -/

section

open LineFamily

theorem fixColumns_eq (mf : (Nat → Bool) × Bool) : fixColumns mf = columns.sweep columns.count mf := rfl

theorem fixRows_eq (mf : (Nat → Bool) × Bool) : fixRows mf = dataRows.sweep dataRows.count mf := rfl

theorem fixPass_columnsThenRows (m : Nat → Bool) :
    fixPass .columnsThenRows m = fixRows (fixColumns (m, false)) := rfl

theorem fixPass_rowsThenColumns (m : Nat → Bool) :
    fixPass .rowsThenColumns m = fixColumns (fixRows (m, false)) := rfl

theorem bptcCodeword_iff (m : Nat → Bool) : BptcCodeword m ↔ dataRows.Clean m ∧ columns.Clean m := Iff.rfl

/-- A pass that corrects nothing leaves the matrix as it is (R183). -/
theorem fixPass_of_not_fixing {order : PassOrder} {m : Nat → Bool} (h : (fixPass order m).2 = false) :
    fixPass order m = (m, false) := by
  have hc : ∀ {x}, (fixColumns x).2 = false → fixColumns x = x := columns.sweep_of_not_fixing
  have hr : ∀ {x}, (fixRows x).2 = false → fixRows x = x := dataRows.sweep_of_not_fixing
  cases order with
  | columnsThenRows =>
    rw [fixPass_columnsThenRows] at h ⊢
    have hrows := hr h
    rw [hrows] at h
    exact hrows.trans (hc h)
  | rowsThenColumns =>
    rw [fixPass_rowsThenColumns] at h ⊢
    have hcolumns := hc h
    rw [hcolumns] at h
    exact hcolumns.trans (hr h)

/-- A pass over a codeword corrects nothing. -/
theorem fixPass_of_codeword (order : PassOrder) {m : Nat → Bool} (h : BptcCodeword m) :
    fixPass order m = (m, false) := by
  obtain ⟨hrows, hcolumns⟩ := (bptcCodeword_iff m).mp h
  have hc : fixColumns (m, false) = (m, false) := columns_valid.sweep_of_clean (le_refl _) hcolumns
  have hr : fixRows (m, false) = (m, false) := dataRows_valid.sweep_of_clean (le_refl _) hrows
  cases order with
  | columnsThenRows => rw [fixPass_columnsThenRows, hc, hr]
  | rowsThenColumns => rw [fixPass_rowsThenColumns, hr, hc]

section

variable {w : Nat → Bool} (hw : BptcCodeword w)
include hw

theorem bptcCodeword_withErrors (e : (Nat → Bool) × Bool) : BptcCodeword (withErrors w e).1 ↔ BptcCodeword e.1 := by
  rw [bptcCodeword_iff] at hw
  rw [bptcCodeword_iff, bptcCodeword_iff, clean_withErrors hw.1, clean_withErrors hw.2]

/-- A pass does to the errors in a codeword what it does to them alone, since the codes are linear. -/
theorem fixPass_withErrors (order : PassOrder) (e : Nat → Bool) :
    fixPass order (withErrors w (e, false)).1 = withErrors w (fixPass order e) := by
  obtain ⟨hrows, hcolumns⟩ := (bptcCodeword_iff w).mp hw
  have hc : ∀ x, fixColumns (withErrors w x) = withErrors w (fixColumns x) := sweep_withErrors hcolumns (le_refl _)
  have hr : ∀ x, fixRows (withErrors w x) = withErrors w (fixRows x) := sweep_withErrors hrows (le_refl _)
  have hpair : ((withErrors w (e, false)).1, false) = withErrors w (e, false) := rfl
  cases order with
  | columnsThenRows => rw [fixPass_columnsThenRows, fixPass_columnsThenRows, hpair, hc, hr]
  | rowsThenColumns => rw [fixPass_rowsThenColumns, fixPass_rowsThenColumns, hpair, hr, hc]

theorem afterPasses_withErrors (order : PassOrder) (e : Nat → Bool) (n : Nat) :
    afterPasses order (withErrors w (e, false)).1 n = withErrors w (afterPasses order e n) := by
  induction n with
  | zero => rfl
  | succ n ih =>
    rw [afterPasses, afterPasses, ih]
    exact fixPass_withErrors hw order _

end

end

end Sys2Proof.Machine
end

section
/-! PROOFS. The BPTC commands (44_bptc.md R180 to R183): the bits that a line of the matrix is read from and written to,
the matrix that BPTC_ENC builds, and the correction loop of BPTC_DEC as passes of the spec's formulas. -/

namespace Sys2Proof.Machine

open Sys2Proof.Claims
open LineFamily (dataRows columns dataRows_valid columns_valid columns_pos_eq)

/-! ### Gathered and scattered bits -/

theorem bitAt_map_range (f : Nat → Bool) {n i : Nat} (hi : i < n) : bitAt ((List.range n).map f) i = f i := by
  simp [bitAt, hi]

theorem bitAt_gather (m : List Bool) (pos : Nat → Nat) {n i : Nat} (hi : i < n) :
    bitAt (gather m ((List.range n).map pos)) i = bitAt m (pos i) := by
  simp [gather, bitAt, hi]

@[simp] theorem gather_length (m : List Bool) (idx : List Nat) : (gather m idx).length = idx.length :=
  List.length_map _

theorem bitAt_set_ne (m : List Bool) {a a' : Nat} (b : Bool) (h : a' ≠ a) : bitAt (m.set a' b) a = bitAt m a := by
  simp [bitAt, List.getElem?_set_ne h]

theorem bitAt_set_self {m : List Bool} {a : Nat} (b : Bool) (h : a < m.length) : bitAt (m.set a b) a = b := by
  simp [bitAt, h]

theorem bitAt_scatter_of_notMem {m : List Bool} {idx : List Nat} {d : List Bool} {a : Nat} (h : a ∉ idx) :
    bitAt (scatter m idx d) a = bitAt m a := by
  induction idx generalizing m d with
  | nil => simp [scatter]
  | cons x idx ih =>
    obtain ⟨hx, hidx⟩ := not_or.mp (mt List.mem_cons.mpr h)
    cases d with
    | nil => rfl
    | cons b d => rw [scatter, ih hidx, bitAt_set_ne m b (Ne.symm hx)]

theorem bitAt_scatter_getElem {m : List Bool} {idx : List Nat} {d : List Bool} (hnodup : idx.Nodup)
    (hlt : ∀ a ∈ idx, a < m.length) (hd : d.length = idx.length) {i : Nat} (hi : i < idx.length) :
    bitAt (scatter m idx d) idx[i] = bitAt d i := by
  induction idx generalizing m d i with
  | nil => cases hi
  | cons x idx ih =>
    obtain ⟨hx, hnodup⟩ := List.nodup_cons.mp hnodup
    obtain ⟨hxlt, hlt⟩ := List.forall_mem_cons.mp hlt
    cases d with
    | nil => cases hd
    | cons b d =>
      cases i with
      | zero => exact (bitAt_scatter_of_notMem hx).trans (bitAt_set_self b hxlt)
      | succ i => exact ih hnodup (by simpa using hlt) (by simpa using hd) (by simpa using hi)

/-- A word written to the positions `pos 0`, `pos 1`, ... -/
theorem bitAt_scatter {pos : Nat → Nat} {n : Nat} {m d : List Bool}
    (hinj : ∀ i < n, ∀ j < n, pos i = pos j → i = j) (hlt : ∀ i < n, pos i < m.length) (hd : d.length = n) {i : Nat}
    (hi : i < n) : bitAt (scatter m ((List.range n).map pos) d) (pos i) = bitAt d i := by
  have hnodup : ((List.range n).map pos).Nodup := List.nodup_range.map_on fun i hi j hj =>
    hinj i (List.mem_range.mp hi) j (List.mem_range.mp hj)
  have hbounds : ∀ a ∈ (List.range n).map pos, a < m.length := by simpa using hlt
  have hscatter := bitAt_scatter_getElem hnodup hbounds (by simpa using hd) (i := i) (by simpa using hi)
  simpa using hscatter

/-! ### The lines of a matrix held as a list -/

/-- The list `m` holds the 196 bits of the matrix `f`. -/
structure HoldsMatrix (m : List Bool) (f : Nat → Bool) : Prop where
  length_eq : m.length = 196
  bits : ∀ a < 196, bitAt m a = f a

namespace LineFamily

/-- The positions of line l, as the model lists them. -/
def indices (L : LineFamily) (l : Nat) : List Nat := (List.range L.code.n).map (L.pos l)

theorem mem_indices {L : LineFamily} {l a : Nat} : a ∈ L.indices l ↔ ∃ i < L.code.n, L.pos l i = a := by
  simp [indices]

variable {L : LineFamily} (hL : L.Valid) {m : List Bool} {f : Nat → Bool} {l : Nat} (hl : l < L.count)
include hL hl

theorem Valid.bitAt_gather_indices (hm : HoldsMatrix m f) {i : Nat} (hi : i < L.code.n) :
    bitAt (gather m (L.indices l)) i = L.word f l i :=
  (bitAt_gather m _ hi).trans (hm.bits _ (hL.pos_bounds hl hi).2)

theorem Valid.syn_gather (hm : HoldsMatrix m f) : L.code.syn (gather m (L.indices l)) = L.syndrome (L.word f l) :=
  (L.code.syn_eq_syndromeOf _).trans (hL.syndrome_congr fun _ hi => hL.bitAt_gather_indices hl hm hi)

/-- A line written back. -/
theorem Valid.bitAt_scatter_indices (hm : m.length = 196) {d : List Bool} (hd : d.length = L.code.n) {i : Nat}
    (hi : i < L.code.n) : bitAt (scatter m (L.indices l) d) (L.pos l i) = bitAt d i :=
  bitAt_scatter (fun _ hi _ hj h => (hL.pos_inj hl hl hi hj h).2) (fun _ hi => hm ▸ (hL.pos_bounds hl hi).2) hd hi

end LineFamily

/-! ### The matrix of a payload -/

theorem HammingCode.Valid.codeword_congr {c : HammingCode} (hc : c.Valid) {f g : Nat → Bool}
    (h : ∀ j < c.k, f j = g j) (b : Nat) : c.codeword f b = c.codeword g b := by
  unfold codeword
  split_ifs with hb
  · exact h b hb
  · exact xorOf_congr fun i hi => h i (hc.lt_of_mem_getD hi)

theorem HammingCode.codeword_of_lt {c : HammingCode} (m : Nat → Bool) {b : Nat} (hb : b < c.k) :
    c.codeword m b = m b := if_pos hb

theorem HammingCode.k_le_n (c : HammingCode) : c.k ≤ c.n := Nat.le_add_right _ _

namespace LineFamily

variable {L : LineFamily} (hL : L.Valid)

/-- The first k lines encoded, one after another (R182). -/
def encodeLines (L : LineFamily) (k : Nat) (m : List Bool) : List Bool :=
  (List.range k).foldl (fun m l => bptcEncodeLine L.code m (L.indices l)) m

theorem encodeLines_succ (k : Nat) (m : List Bool) :
    L.encodeLines (k + 1) m = bptcEncodeLine L.code (L.encodeLines k m) (L.indices k) := by
  simp [encodeLines, List.range_succ]

@[simp] theorem encodeLines_length (k : Nat) (m : List Bool) : (L.encodeLines k m).length = m.length := by
  induction k with
  | zero => rfl
  | succ k ih => rw [encodeLines_succ, bptcEncodeLine, scatter_length, ih]

include hL

theorem Valid.codeword_isWordMap : IsWordMap L.code.n L.code.codeword := fun _ _ h i _ =>
  hL.code_valid.codeword_congr (fun j hj => h j (hj.trans_le L.code.k_le_n)) i

/-- One line encoded. -/
theorem Valid.encodeLine_rewrites {l : Nat} (hl : l < L.count) {m : List Bool} (hm : m.length = 196) :
    L.Rewrites L.code.codeword (· = l) (bitAt m) (bitAt (bptcEncodeLine L.code m (L.indices l))) := by
  have hdata : (L.indices l).take L.code.k = (List.range L.code.k).map (L.pos l) := by
    rw [indices, ← List.map_take, List.take_range, Nat.min_eq_left L.code.k_le_n]
  have hlen : (gather m ((List.range L.code.k).map (L.pos l))).length = L.code.k := by simp
  rw [bptcEncodeLine, hdata]
  refine ⟨?_, fun a ha => bitAt_scatter_of_notMem fun hmem => ?_⟩
  · rintro l rfl i hi
    rw [hL.bitAt_scatter_indices hl hm (by simp [HammingCode.n]) hi, L.code.bitAt_encode hlen hi]
    exact hL.code_valid.codeword_congr (fun j hj => bitAt_gather m _ hj) i
  · obtain ⟨i, hi, hpos⟩ := mem_indices.mp hmem
    exact ha l rfl i hi hpos.symm

/-- Every line is encoded on its own. -/
theorem Valid.encodeLines_rewrites {k : Nat} (hk : k ≤ L.count) {m : List Bool} (hm : m.length = 196) :
    L.Rewrites L.code.codeword (· < k) (bitAt m) (bitAt (L.encodeLines k m)) := by
  induction k with
  | zero => exact rewrites_none _ _
  | succ k ih =>
    rw [encodeLines_succ]
    exact hL.rewrites_succ hL.codeword_isWordMap hk (ih (Nat.le_of_succ_le hk))
      (hL.encodeLine_rewrites hk (by simpa using hm))

/-- A line that holds an encoded word is a codeword. -/
theorem Valid.syndrome_of_encoded {m x : Nat → Bool} {l : Nat}
    (h : ∀ i < L.code.n, x (L.pos l i) = L.code.codeword (L.word m l) i) : L.syndrome (L.word x l) = 0 :=
  (hL.syndrome_congr h).trans (hL.code_valid.syndromeOf_codeword _)

end LineFamily

/-- Payload bit i stands in a data column of a data row (R181). -/
theorem payloadPosition_eq {i : Nat} (hi : i < 96) : ∃ r < 9, ∃ j < 11, payloadPosition i = 15 * r + 1 + j := by
  unfold payloadPosition
  split_ifs with h
  · exact ⟨0, by omega, 3 + i, by omega, by omega⟩
  · exact ⟨1 + (i - 8) / 11, by omega, (i - 8) % 11, by omega, rfl⟩

theorem payloadPosition_bounds {i : Nat} (hi : i < 96) : 4 ≤ payloadPosition i ∧ payloadPosition i < 196 := by
  unfold payloadPosition
  split_ifs <;> omega

theorem payloadPosition_inj {i j : Nat} (hi : i < 96) (hj : j < 96) (h : payloadPosition i = payloadPosition j) :
    i = j := by
  unfold payloadPosition at h
  split_ifs at h <;> omega

theorem bptcPos_eq (i : Nat) : bptcPos i = payloadPosition i := by
  unfold bptcPos payloadPosition
  split_ifs <;> omega

/-- R181's table, bit by bit. -/
theorem payloadPlaced_iff (m p : Nat → Bool) : PayloadPlaced m p ↔ ∀ i < 96, m (payloadPosition i) = p i := by
  have hfirst : ∀ {j}, j < 8 → payloadPosition j = 4 + j := fun hj => if_pos hj
  have hlater : ∀ {r j}, 1 ≤ r → j < 11 → payloadPosition (8 + 11 * (r - 1) + j) = 15 * r + 1 + j := fun hr hj => by
    unfold payloadPosition
    rw [if_neg (by omega)]
    omega
  constructor
  · rintro ⟨hrow0, hrows⟩ i hi
    by_cases h8 : i < 8
    · rw [hfirst h8, hrow0 i h8]
    · have hrow := hrows (1 + (i - 8) / 11) (by omega) (by omega) ((i - 8) % 11) (by omega)
      rw [show 8 + 11 * (1 + (i - 8) / 11 - 1) + (i - 8) % 11 = i by omega] at hrow
      rw [← hrow, payloadPosition, if_neg h8]
  · refine fun h => ⟨fun j hj => ?_, fun r hr hr8 j hj => ?_⟩
    · rw [← hfirst hj, h j (by omega)]
    · rw [← hlater hr hj, h _ (by omega)]

/-- The matrix with the payload bits alone (R182). -/
def placedPayload (p : List Bool) : List Bool := scatter (List.replicate 196 false) ((List.range 96).map bptcPos) p

/-- Rows first, then columns (R182). -/
theorem bptcEncodeMatrix_eq (p : List Bool) :
    bptcEncodeMatrix p = columns.encodeLines columns.count (dataRows.encodeLines dataRows.count (placedPayload p)) :=
  rfl

@[simp] theorem placedPayload_length (p : List Bool) : (placedPayload p).length = 196 := by
  rw [placedPayload, scatter_length, List.length_replicate]

theorem bitAt_placedPayload {p : List Bool} (hp : p.length = 96) {i : Nat} (hi : i < 96) :
    bitAt (placedPayload p) (payloadPosition i) = bitAt p i := by
  rw [← bptcPos_eq]
  refine bitAt_scatter (fun i hi j hj h => ?_) (fun i hi => ?_) hp hi
  · rw [bptcPos_eq, bptcPos_eq] at h
    exact payloadPosition_inj hi hj h
  · rw [bptcPos_eq, List.length_replicate]
    exact (payloadPosition_bounds hi).2

theorem bitAt_placedPayload_reserved (p : List Bool) {a : Nat} (ha : a < 4) : bitAt (placedPayload p) a = false := by
  refine (bitAt_scatter_of_notMem fun hmem => ?_).trans (List.getD_replicate false (by omega))
  obtain ⟨i, hi, hpos⟩ := List.mem_map.mp hmem
  have hbounds := payloadPosition_bounds (List.mem_range.mp hi)
  rw [← bptcPos_eq] at hbounds
  omega

/-- The row bits of a data row are left by the column encoder: they are data bits of the columns (R182). -/
theorem bitAt_bptcEncodeMatrix_row (p : List Bool) {r i : Nat} (hr : r < 9) (hi : i < 15) :
    bitAt (bptcEncodeMatrix p) (dataRows.pos r i) =
      h15113b.codeword (dataRows.word (bitAt (placedPayload p)) r) i := by
  have hrows := dataRows_valid.encodeLines_rewrites (le_refl _) (placedPayload_length p)
  have hcolumns := columns_valid.encodeLines_rewrites (le_refl _)
    (m := dataRows.encodeLines dataRows.count (placedPayload p)) (by simp)
  have hrow := hrows.on_lines r hr i hi
  have hcolumn := hcolumns.on_lines i hi r (hr.trans (by decide))
  rw [HammingCode.codeword_of_lt (c := columns.code) _ hr, LineFamily.word, columns_pos_eq] at hcolumn
  rw [bptcEncodeMatrix_eq, hcolumn, hrow]
  rfl

/-- The bits of the first eleven columns of a data row are as they were placed (R182). -/
theorem bitAt_bptcEncodeMatrix_data (p : List Bool) {r i : Nat} (hr : r < 9) (hi : i < 11) :
    bitAt (bptcEncodeMatrix p) (15 * r + 1 + i) = bitAt (placedPayload p) (15 * r + 1 + i) :=
  (bitAt_bptcEncodeMatrix_row p hr (hi.trans (by decide))).trans (HammingCode.codeword_of_lt (c := h15113b) _ hi)

theorem bitAt_bptcEncodeMatrix_payload {p : List Bool} (hp : p.length = 96) {i : Nat} (hi : i < 96) :
    bitAt (bptcEncodeMatrix p) (payloadPosition i) = bitAt p i := by
  obtain ⟨r, hr, j, hj, hpos⟩ := payloadPosition_eq hi
  rw [hpos, bitAt_bptcEncodeMatrix_data p hr hj, ← hpos, bitAt_placedPayload hp hi]

theorem bitAt_bptcEncodeMatrix_reserved (p : List Bool) {a : Nat} (ha : a < 4) :
    bitAt (bptcEncodeMatrix p) a = false := by
  rw [← bitAt_placedPayload_reserved p ha]
  cases a with
  | zero =>
    rw [bptcEncodeMatrix_eq, (columns_valid.encodeLines_rewrites (le_refl _) (by simp)).elsewhere,
      (dataRows_valid.encodeLines_rewrites (le_refl _) (by simp)).elsewhere]
    · exact fun l hl i hi => (dataRows_valid.pos_bounds hl hi).1.ne
    · exact fun l hl i hi => (columns_valid.pos_bounds hl hi).1.ne
  | succ a =>
    have hdata := bitAt_bptcEncodeMatrix_data p (r := 0) (i := a) (by decide) (by omega)
    rwa [show 15 * 0 + 1 + a = a + 1 by omega] at hdata

theorem bptcEncodeMatrix_codeword (p : List Bool) : BptcCodeword (bitAt (bptcEncodeMatrix p)) := by
  refine (bptcCodeword_iff _).mpr ⟨fun r hr => ?_, fun c hc => ?_⟩
  · exact dataRows_valid.syndrome_of_encoded fun i hi => bitAt_bptcEncodeMatrix_row p hr hi
  · rw [bptcEncodeMatrix_eq]
    exact columns_valid.syndrome_of_encoded
      ((columns_valid.encodeLines_rewrites (le_refl _) (by simp)).on_lines c hc)

/-! ### Interleaving -/

theorem bitAt_bptcInterleave (m : List Bool) {a : Nat} (ha : a < 196) :
    bitAt (bptcInterleave m) ((a * 181) % 196) = bitAt m a := by
  rw [bptcInterleave, bptcLen, bitAt_map_range _ (Nat.mod_lt _ (by decide)), bptcMatrix,
    show 13 * (a * 181 % 196) % 196 = a by omega]

/-- The deinterleaved input is the matrix of the block in IBUF (R180). -/
theorem bptcDeinterleave_holds (s : State) :
    HoldsMatrix (bptcDeinterleave (inputBits bptcLen s)) (matrixOf s.ibuf.bit) where
  length_eq := bptcDeinterleave_length _
  bits := fun a ha => by
    rw [bptcDeinterleave, bptcLen, bitAt_map_range _ ha, bptcRaw, bitAt_inputBits s (Nat.mod_lt _ (by decide))]
    rfl

/-- The matrix of a block depends on its 196 bits alone. -/
theorem matrixOf_congr {f g : Nat → Bool} (h : ∀ j < 196, f j = g j) : matrixOf f = matrixOf g :=
  funext fun _ => h _ (Nat.mod_lt _ (by decide))

theorem bptcCodeword_congr {f g : Nat → Bool} (h : ∀ a < 196, f a = g a) : BptcCodeword f ↔ BptcCodeword g := by
  have hclean : ∀ {L : LineFamily}, L.Valid → (L.Clean f ↔ L.Clean g) := fun {L} hL => forall₂_congr fun l hl => by
    have hword : ∀ i < L.code.n, L.word f l i = L.word g l i := fun _ hi => h _ (hL.pos_bounds hl hi).2
    rw [hL.syndrome_congr hword]
  rw [bptcCodeword_iff, bptcCodeword_iff, hclean dataRows_valid, hclean columns_valid]

/-! ### BPTC_ENC -/

/-- The state after BPTC_ENC (R182). -/
def bptcEncoded (s : State) : State := setResult .ok 0 (out (bptcInterleave (bptcEncodeMatrix (inputBits 96 s))) s)

theorem exec_bptcEnc (s : State) : exec .bptcEnc s = .next (bptcEncoded s) := rfl

theorem bptcEncoded_outputIs (s : State) :
    OutputIs (bptcEncoded s) 196 (bitAt (bptcInterleave (bptcEncodeMatrix (inputBits 96 s)))) :=
  setResult_out_outputIs s (bptcInterleave_length _) fun _ _ => rfl

theorem matrixOf_bptcEncoded (s : State) {a : Nat} (ha : a < 196) :
    matrixOf (bptcEncoded s).obuf.bit a = bitAt (bptcEncodeMatrix (inputBits 96 s)) a := by
  rw [matrixOf, bit_of_outputIs (bptcEncoded_outputIs s) (by decide) (Nat.mod_lt _ (by decide)),
    bitAt_bptcInterleave _ ha]

/-- The payload stands in the encoded block (R181). -/
theorem matrixOf_bptcEncoded_payload (s : State) {i : Nat} (hi : i < 96) :
    matrixOf (bptcEncoded s).obuf.bit (payloadPosition i) = s.ibuf.bit i := by
  rw [matrixOf_bptcEncoded s (payloadPosition_bounds hi).2,
    bitAt_bptcEncodeMatrix_payload (inputBits_length 96 s) hi, bitAt_inputBits s hi]

theorem bptcEncoded_codeword (s : State) : BptcCodeword (matrixOf (bptcEncoded s).obuf.bit) :=
  (bptcCodeword_congr fun _ => matrixOf_bptcEncoded s).mpr (bptcEncodeMatrix_codeword _)

/-- Settles O31: the columns' data bits are the rows that were encoded before them. -/
theorem bptcEncodeEffect : Obligations.BptcEncodeEffect := by
  refine ⟨isF0_of_isBare (i := .bptcEnc) rfl, fun s => ⟨_, exec_bptcEnc s, ⟨rfl, rfl⟩, setResult_out_codecFrame .., ?_,
    fun a ha => ?_, (payloadPlaced_iff _ _).mpr fun _ => matrixOf_bptcEncoded_payload s, bptcEncoded_codeword s⟩⟩
  · have hout := bptcEncoded_outputIs s
    exact outputIs_congr hout fun i hi => (bit_of_outputIs hout (by decide) hi).symm
  · rw [matrixOf_bptcEncoded s (by omega), bitAt_bptcEncodeMatrix_reserved _ ha]

/-! ### The correction loop -/

/-- The model's matrix and `fixing` are the spec's. -/
def MatchesSpec (mf : List Bool × Bool) (g : (Nat → Bool) × Bool) : Prop := HoldsMatrix mf.1 g.1 ∧ mf.2 = g.2

namespace LineFamily

variable {L : LineFamily} (hL : L.Valid) {mf : List Bool × Bool} {g : (Nat → Bool) × Bool}
include hL

/-- The model's correction of a line is the spec's (R132, R183). -/
theorem Valid.decodeLine_matches {l : Nat} (hl : l < L.count) (h : MatchesSpec mf g) :
    MatchesSpec (bptcDecodeLine L.code mf (L.indices l)) (L.fix g l) := by
  obtain ⟨hm, hflag⟩ := h
  have hsyn := hL.syn_gather hl hm
  rcases L.code.correct_cases (gather mf.1 (L.indices l)) with
    ⟨hzero, hcorrect⟩ | ⟨b, -, hb, hcol, hcorrect⟩ | ⟨-, hnone, hcorrect⟩
  · rw [bptcDecodeLine, hcorrect, hL.fix_of_syndrome_zero (hsyn.symm.trans hzero)]
    exact ⟨hm, hflag⟩
  · rw [bptcDecodeLine, hcorrect, L.fix_of_namedBit_some (hL.namedBit_eq_some_iff.mpr ⟨hb, hcol.trans hsyn⟩)]
    refine ⟨⟨(scatter_length _ _ _).trans hm.length_eq, fun a ha => ?_⟩, rfl⟩
    have hlen : (gather mf.1 (L.indices l)).length = L.code.n := by simp [indices]
    by_cases hline : a ∈ L.indices l
    · obtain ⟨i, hi, rfl⟩ := mem_indices.mp hline
      have hpos : L.pos l i = L.pos l b ↔ i = b := ⟨fun h => (hL.pos_inj hl hl hi hb h).2, fun h => h ▸ rfl⟩
      simp only [hpos]
      rw [hL.bitAt_scatter_indices hl hm.length_eq ((flipBit_length _ _).trans hlen) hi,
        bitAt_flipBit b (by rwa [hlen]), hL.bitAt_gather_indices hl hm hi]
      rfl
    · have hne : a ≠ L.pos l b := fun h => hline (mem_indices.mpr ⟨b, hb, h.symm⟩)
      rw [bitAt_scatter_of_notMem hline, hm.bits a ha]
      simp [hne]
  · rw [hsyn] at hnone
    rw [bptcDecodeLine, hcorrect, L.fix_of_namedBit_none (hL.namedBit_eq_none_iff.mpr hnone)]
    exact ⟨hm, hflag⟩

/-- The first k lines decoded, one after another, as the model does it. -/
def decodeLines (L : LineFamily) (k : Nat) (mf : List Bool × Bool) : List Bool × Bool :=
  (List.range k).foldl (fun acc l => bptcDecodeLine L.code acc (L.indices l)) mf

omit hL in
theorem decodeLines_succ (k : Nat) (mf : List Bool × Bool) :
    L.decodeLines (k + 1) mf = bptcDecodeLine L.code (L.decodeLines k mf) (L.indices k) := by
  simp [decodeLines, List.range_succ]

theorem Valid.decodeLines_matches {k : Nat} (hk : k ≤ L.count) (h : MatchesSpec mf g) :
    MatchesSpec (L.decodeLines k mf) (L.sweep k g) := by
  induction k with
  | zero => exact h
  | succ k ih =>
    rw [decodeLines_succ, sweep_succ]
    exact hL.decodeLine_matches hk (ih (Nat.le_of_succ_le hk))

end LineFamily

theorem bptcColumns_matches {mf : List Bool × Bool} {g : (Nat → Bool) × Bool} (h : MatchesSpec mf g) :
    MatchesSpec (bptcColumns mf) (fixColumns g) := columns_valid.decodeLines_matches (le_refl _) h

theorem bptcRows_matches {mf : List Bool × Bool} {g : (Nat → Bool) × Bool} (h : MatchesSpec mf g) :
    MatchesSpec (bptcRows mf) (fixRows g) := dataRows_valid.decodeLines_matches (le_refl _) h

theorem bptcPass_matches (order : PassOrder) {m : List Bool} {f : Nat → Bool} (h : HoldsMatrix m f) :
    MatchesSpec (bptcPass order m) (fixPass order f) := by
  have hstart : MatchesSpec (m, false) (f, false) := ⟨h, rfl⟩
  cases order with
  | columnsThenRows => exact bptcRows_matches (bptcColumns_matches hstart)
  | rowsThenColumns => exact bptcColumns_matches (bptcRows_matches hstart)

/-- What the correction loop leaves when it is entered after n passes over the matrix f and may end at `last`: the passes
up to its end, and `any`, which was `any` at its entry (R183). -/
structure LoopEnds (order : PassOrder) (f : Nat → Bool) (n last : Nat) (any : Bool) (run : BptcRun) : Prop where
  fixing_before : ∀ k, n < k → k < run.passes → (afterPasses order f k).2 = true
  stops : run.passes = last ∨ (afterPasses order f run.passes).2 = false
  matrix : HoldsMatrix run.matrix (afterPasses order f run.passes).1
  any_iff : run.any = true ↔ any = true ∨ ∃ k, n < k ∧ k ≤ run.passes ∧ (afterPasses order f k).2 = true

theorem bptcLoop_ends (order : PassOrder) (f : Nat → Bool) (fuel : Nat) {run : BptcRun}
    (hm : HoldsMatrix run.matrix (afterPasses order f run.passes).1) :
    LoopEnds order f run.passes (run.passes + fuel) run.any (bptcLoop order fuel run) := by
  induction fuel generalizing run with
  | zero =>
    refine ⟨fun k h h' => absurd h (Nat.lt_asymm h'), .inl rfl, hm, (or_iff_left ?_).symm⟩
    rintro ⟨k, h, h', -⟩
    exact absurd h (Nat.not_lt_of_le h')
  | succ fuel ih =>
    obtain ⟨hpass, hflag⟩ : MatchesSpec (bptcPass order run.matrix) (afterPasses order f (run.passes + 1)) :=
      bptcPass_matches order hm
    have hnext : ∀ {k}, run.passes < k → k = run.passes + 1 ∨ run.passes + 1 < k := by omega
    rw [bptcLoop]
    split
    next m heq =>
      rw [heq] at hpass hflag
      obtain ⟨hbefore, hstops, hmatrix, hany⟩ := ih (run := ⟨m, run.passes + 1, true⟩) hpass
      obtain ⟨hle, -⟩ := bptcLoop_passes order fuel ⟨m, run.passes + 1, true⟩
      refine ⟨fun k hk hk' => ?_, ?_, hmatrix, ?_⟩
      · rcases hnext hk with rfl | hk
        · exact hflag.symm
        · exact hbefore k hk hk'
      · rwa [show run.passes + (fuel + 1) = run.passes + 1 + fuel by omega]
      · exact iff_of_true (hany.mpr (.inl rfl)) (.inr ⟨run.passes + 1, Nat.lt_succ_self _, hle, hflag.symm⟩)
    next m heq =>
      rw [heq] at hpass hflag
      refine ⟨fun k hk hk' => absurd hk' (Nat.not_lt_of_le hk), .inr hflag.symm, hpass, (or_iff_left ?_).symm⟩
      rintro ⟨k, hk, hk', hfixing⟩
      obtain rfl := Nat.le_antisymm hk' hk
      exact absurd hfixing (hflag ▸ Bool.false_ne_true)

/-- `bad` is false exactly on codewords (R183). -/
theorem bptcBad_eq_false_iff {m : List Bool} {f : Nat → Bool} (hm : HoldsMatrix m f) :
    bptcBad m = false ↔ BptcCodeword f := by
  have hrows : ∀ r < 9, h15113b.syn (gather m (bptcRow r)) = dataRows.syndrome (dataRows.word f r) := fun _ hr =>
    dataRows_valid.syn_gather hr hm
  have hcolumns : ∀ c < 15, h1393.syn (gather m (bptcColumn c)) = columns.syndrome (columns.word f c) := fun _ hc =>
    columns_valid.syn_gather hc hm
  rw [bptcCodeword_iff, bptcBad, Bool.or_eq_false_iff, List.any_eq_false, List.any_eq_false]
  refine and_congr (forall_congr' fun r => ?_) (forall_congr' fun c => ?_)
  · rw [List.mem_range]
    exact forall_congr' fun hr => by rw [hrows r hr]; simp
  · rw [List.mem_range]
    exact forall_congr' fun hc => by rw [hcolumns c hc]; simp

/-! ### BPTC_DEC -/

/-- BPTC_DEC in `s` ran p passes and left `t` (R183). -/
structure BptcDecodes (s t : State) (p : Nat) : Prop where
  one_le : 1 ≤ p
  le_five : p ≤ 5
  fixing_before : ∀ k, 1 ≤ k → k < p → (blockAfter s k).2 = true
  stops : p = 5 ∨ (blockAfter s p).2 = false
  aux_eq : t.aux = BitVec.ofNat 8 p
  uncorrectable : ¬ BptcCodeword (blockAfter s p).1 → t.result = .uncorrectable
  corrected : BptcCodeword (blockAfter s p).1 → (∃ k, 1 ≤ k ∧ k ≤ p ∧ (blockAfter s k).2 = true) →
    t.result = .corrected
  clean : BptcCodeword (blockAfter s p).1 → (∀ k, 1 ≤ k → k ≤ p → (blockAfter s k).2 = false) → t.result = .clean
  output : OutputIs t 96 fun i => (blockAfter s p).1 (payloadPosition i)

/-- The run of the correction loop that BPTC_DEC makes. -/
def bptcRunOf (s : State) : BptcRun := bptcCorrect s.params.bptcOrder (inputBits bptcLen s)

/-- The state after BPTC_DEC (R183). -/
def bptcDecoded (s : State) : State :=
  setResult (bptcStatus (bptcRunOf s)) (BitVec.ofNat 8 (bptcRunOf s).passes) (out (bptcPayload (bptcRunOf s).matrix) s)

theorem exec_bptcDec (s : State) : exec .bptcDec s = .next (bptcDecoded s) := rfl

theorem bptcRunOf_ends (s : State) :
    LoopEnds s.params.bptcOrder (matrixOf s.ibuf.bit) 0 5 false (bptcRunOf s) :=
  bptcLoop_ends s.params.bptcOrder (matrixOf s.ibuf.bit) 5 (run := ⟨bptcDeinterleave (inputBits bptcLen s), 0, false⟩)
    (bptcDeinterleave_holds s)

theorem bptcRunOf_passes (s : State) : 1 ≤ (bptcRunOf s).passes ∧ (bptcRunOf s).passes ≤ 5 := by
  obtain ⟨-, hle, hone⟩ := bptcLoop_passes s.params.bptcOrder 5 ⟨bptcDeinterleave (inputBits bptcLen s), 0, false⟩
  exact ⟨hone (by decide), hle⟩

theorem bptcPayload_bit {m : List Bool} {f : Nat → Bool} (hm : HoldsMatrix m f) {i : Nat} (hi : i < 96) :
    bitAt (bptcPayload m) i = f (payloadPosition i) := by
  rw [bptcPayload, bitAt_gather m _ hi, bptcPos_eq, hm.bits _ (payloadPosition_bounds hi).2]

theorem bptcDecoded_decodes (s : State) : BptcDecodes s (bptcDecoded s) (bptcRunOf s).passes := by
  obtain ⟨hbefore, hstops, hmatrix, hany⟩ := bptcRunOf_ends s
  obtain ⟨hone, hfive⟩ := bptcRunOf_passes s
  have hbad := bptcBad_eq_false_iff hmatrix
  refine ⟨hone, hfive, hbefore, hstops, rfl, fun hcode => ?_, fun hcode hfix => ?_, fun hcode hfix => ?_,
    setResult_out_outputIs s (bptcPayload_length _) fun _ => bptcPayload_bit hmatrix⟩
  all_goals change bptcStatus (bptcRunOf s) = _
  · rw [bptcStatus, if_pos (Bool.not_eq_false _ ▸ hbad.not.mpr hcode)]
  · rw [bptcStatus, hbad.mpr hcode, hany.mpr (.inr hfix)]
    rfl
  · have hnone : (bptcRunOf s).any = false := Bool.eq_false_iff.mpr fun h => by
      obtain hstart | ⟨k, hk, hk', hfixing⟩ := hany.mp h
      · cases hstart
      · exact absurd hfixing (hfix k hk hk' ▸ Bool.false_ne_true)
    rw [bptcStatus, hbad.mpr hcode, hnone]
    rfl

/-- Settles O32: the model's lines, passes and loop are the spec's. -/
theorem bptcDecodeCompletes : Obligations.BptcDecodeCompletes := by
  refine ⟨isF0_of_isBare (i := .bptcDec) rfl, fun s => ?_⟩
  have h := bptcDecoded_decodes s
  exact ⟨_, _, exec_bptcDec s, setResult_out_codecFrame .., h.one_le, h.le_five, h.fixing_before, h.stops, h.aux_eq,
    h.uncorrectable, h.corrected, h.clean, h.output⟩

end Sys2Proof.Machine
end

section
/-! PROOFS. Errors in an encoded block (44_bptc.md R183 to R185): codewords are what BPTC_DEC calls CLEAN, a single
error is gone after one pass, and two errors, columns first, are after each pass in the check rows of one column. -/

namespace Sys2Proof.Machine

open Sys2Proof.Claims
open LineFamily (dataRows columns dataRows_valid columns_valid columns_pos_eq)

/-! ### Where the loop stops -/

namespace BptcDecodes

variable {s t : State} {p : Nat} (h : BptcDecodes s t p)
include h

/-- The loop ends with the first pass that corrects nothing. -/
theorem passes_eq {k : Nat} (hk : 1 ≤ k) (hk5 : k ≤ 5) (hfixing : ∀ j, 1 ≤ j → j < k → (blockAfter s j).2 = true)
    (hstop : (blockAfter s k).2 = false) : p = k := by
  rcases Nat.lt_trichotomy p k with hlt | heq | hgt
  · rcases h.stops with hfive | hfalse
    · omega
    · exact absurd (hfixing p h.one_le hlt) (hfalse ▸ Bool.false_ne_true)
  · exact heq
  · exact absurd (h.fixing_before k hk hgt) (hstop ▸ Bool.false_ne_true)

/-- BPTC_DEC on a codeword. -/
theorem of_codeword (hcode : BptcCodeword (matrixOf s.ibuf.bit)) :
    Reports t .clean 1 ∧ OutputIs t 96 fun i => matrixOf s.ibuf.bit (payloadPosition i) := by
  have hpass : blockAfter s 1 = (matrixOf s.ibuf.bit, false) := fixPass_of_codeword _ hcode
  obtain rfl := h.passes_eq (k := 1) (le_refl 1) (by decide) (by omega) (by rw [hpass])
  have hclean := h.clean
  have hout := h.output
  rw [hpass] at hclean hout
  refine ⟨⟨hclean hcode fun k hk hk' => ?_, h.aux_eq⟩, hout⟩
  rw [Nat.le_antisymm hk' hk, hpass]

/-- BPTC_DEC on a block that its first pass corrects to a codeword. -/
theorem of_corrected (hfixing : (blockAfter s 1).2 = true) (hcode : BptcCodeword (blockAfter s 1).1) :
    Reports t .corrected 2 ∧ OutputIs t 96 fun i => (blockAfter s 1).1 (payloadPosition i) := by
  have hpass : blockAfter s 2 = ((blockAfter s 1).1, false) := fixPass_of_codeword _ hcode
  have hfirst : ∀ j, 1 ≤ j → j < 2 → (blockAfter s j).2 = true := fun j hj hj' => by
    rwa [show j = 1 by omega]
  obtain rfl := h.passes_eq (by decide) (by decide) hfirst (by rw [hpass])
  have hcorrected := h.corrected
  have hout := h.output
  rw [hpass] at hcorrected hout
  exact ⟨⟨hcorrected hcode ⟨1, le_refl 1, by decide, hfixing⟩, h.aux_eq⟩, hout⟩

/-- A CLEAN block is a codeword: its one pass left it as it was. -/
theorem codeword_of_clean (hclean : t.result = .clean) : BptcCodeword (matrixOf s.ibuf.bit) := by
  have hcode : BptcCodeword (blockAfter s p).1 := by
    by_contra hcode
    cases hclean.symm.trans (h.uncorrectable hcode)
  have hnone : ∀ k, 1 ≤ k → k ≤ p → (blockAfter s k).2 = false := fun k hk hk' => by
    by_contra hfixing
    cases hclean.symm.trans (h.corrected hcode ⟨k, hk, hk', Bool.not_eq_false _ ▸ hfixing⟩)
  have hfirst : (blockAfter s 1).2 = false := hnone 1 (le_refl 1) h.one_le
  obtain rfl := h.passes_eq (k := 1) (le_refl 1) (by decide) (by omega) hfirst
  have hpass : blockAfter s 1 = (matrixOf s.ibuf.bit, false) := fixPass_of_not_fixing hfirst
  rwa [hpass] at hcode

end BptcDecodes

/-- Settles O33: a pass corrects nothing exactly on codewords, and then leaves the matrix as it is. -/
theorem bptcCleanExactlyOnCodewords : Obligations.BptcCleanExactlyOnCodewords := by
  intro s t ht
  obtain rfl := next_inj.mp (ht.symm.trans (exec_bptcDec s))
  have h := bptcDecoded_decodes s
  refine ⟨⟨h.codeword_of_clean, fun hcode => (h.of_codeword hcode).1.1⟩, fun hclean => ?_⟩
  obtain ⟨-, hout⟩ := h.of_codeword (h.codeword_of_clean hclean)
  exact (payloadPlaced_iff _ _).mpr fun i hi => (bit_of_outputIs hout (by decide) hi).symm

/-! ### An encoded block with errors -/

theorem eq_bptcEncoded {s t : State} (ht : exec .bptcEnc s = .next t) : t = bptcEncoded s :=
  next_inj.mp (ht.symm.trans (exec_bptcEnc s))

section

variable {s u : State} {err : Nat → Bool} (hu : ∀ j < 196, u.ibuf.bit j = ((bptcEncoded s).obuf.bit j ^^ err j))
include hu

/-- The matrix received is the encoded one with the matrix of the flipped bits as errors. -/
theorem matrixOf_received :
    matrixOf u.ibuf.bit = (withErrors (matrixOf (bptcEncoded s).obuf.bit) (matrixOf err, false)).1 :=
  matrixOf_congr hu

/-- The passes over a block received with errors, by what they do to the errors alone. -/
theorem blockAfter_received (n : Nat) :
    blockAfter u n =
      withErrors (matrixOf (bptcEncoded s).obuf.bit) (afterPasses u.params.bptcOrder (matrixOf err) n) := by
  rw [blockAfter, matrixOf_received hu]
  exact afterPasses_withErrors (bptcEncoded_codeword s) _ _ n

end

/-- The payload of a block whose errors are elsewhere. -/
theorem payload_withErrors (s : State) {e : (Nat → Bool) × Bool} (he : dataRows.Zero e.1) {i : Nat} (hi : i < 96) :
    (withErrors (matrixOf (bptcEncoded s).obuf.bit) e).1 (payloadPosition i) = s.ibuf.bit i := by
  obtain ⟨r, hr, j, hj, hpos⟩ := payloadPosition_eq hi
  have hzero : e.1 (payloadPosition i) = false := hpos ▸ he r hr j (hj.trans (by decide))
  change (matrixOf (bptcEncoded s).obuf.bit (payloadPosition i) ^^ e.1 (payloadPosition i)) = s.ibuf.bit i
  rw [hzero, Bool.xor_false, matrixOf_bptcEncoded_payload s hi]

/-- The columns are the whole matrix. -/
theorem dataRows_zero_of_columns {e : Nat → Bool} (h : columns.Zero e) : dataRows.Zero e := fun r hr i hi => by
  rw [← columns_pos_eq]
  exact h i hi r (hr.trans (by decide))

theorem bptcCodeword_of_columns_zero {e : Nat → Bool} (h : columns.Zero e) : BptcCodeword e :=
  (bptcCodeword_iff e).mpr
    ⟨dataRows_valid.clean_of_zero (dataRows_zero_of_columns h), columns_valid.clean_of_zero h⟩

/-- Every position but m[0] is on a column. -/
theorem exists_column_pos {a : Nat} (hpos : 0 < a) (hlt : a < 196) :
    ∃ c < 15, ∃ r < 13, columns.pos c r = a := by
  refine ⟨(a - 1) % 15, by omega, (a - 1) / 15, by omega, ?_⟩
  change (a - 1) % 15 + 1 + 15 * ((a - 1) / 15) = a
  omega

/-- Matrix position a holds raw bit e exactly if a is (13 * e) mod 196 (R180). -/
theorem interleave_eq_iff {a e : Nat} (ha : a < 196) (he : e < 196) : a * 181 % 196 = e ↔ a = 13 * e % 196 := by
  omega

/-- BPTC_DEC on an encoded block whose matrix has no errors. -/
theorem decodes_received_zero {s u v : State} {p : Nat} {err : Nat → Bool} (h : BptcDecodes u v p)
    (hu : ∀ j < 196, u.ibuf.bit j = ((bptcEncoded s).obuf.bit j ^^ err j)) (herr : columns.Zero (matrixOf err)) :
    Reports v .clean 1 ∧ OutputIs v 96 s.ibuf.bit := by
  have hmatrix := matrixOf_received hu
  have hcode : BptcCodeword (matrixOf u.ibuf.bit) := by
    rw [hmatrix, bptcCodeword_withErrors (bptcEncoded_codeword s)]
    exact bptcCodeword_of_columns_zero herr
  obtain ⟨hreports, hout⟩ := h.of_codeword hcode
  refine ⟨hreports, outputIs_congr hout fun i hi => ?_⟩
  rw [hmatrix, payload_withErrors s (dataRows_zero_of_columns herr) hi]

/-- Settles O34: an encoded block is a codeword. -/
theorem bptcRoundTrip : Obligations.BptcRoundTrip := by
  intro s t u ht hu
  obtain rfl := eq_bptcEncoded ht
  refine ⟨_, exec_bptcDec u, decodes_received_zero (err := fun _ => false) (bptcDecoded_decodes u) (fun j hj => ?_)
    fun _ _ _ _ => rfl⟩
  rw [hu j hj, Bool.xor_false]

/-! ### One error -/

/-- The only error in the matrix, if there is one, is at position a. -/
def OnlyError (e : Nat → Bool) (a : Nat) : Prop := ∀ b < 196, e b = true → b = a

namespace LineFamily

variable {L : LineFamily} (hL : L.Valid) {mf : (Nat → Bool) × Bool} {a : Nat} (he : OnlyError mf.1 a)
include hL he

/-- A sweep corrects the line of the error. -/
theorem Valid.sweep_zero : L.Zero (L.sweep L.count mf).1 := fun _ hl _ hi =>
  hL.sweep_line_zero hl (fun i hi j hj hei hej => by
    have hpos : L.pos _ i = L.pos _ j :=
      (he _ (hL.pos_bounds hl hi).2 hei).trans (he _ (hL.pos_bounds hl hj).2 hej).symm
    exact (hL.pos_inj hl hl hi hj hpos).2) hi

/-- A sweep makes no error where there was none. -/
theorem Valid.sweep_onlyError : OnlyError (L.sweep L.count mf).1 a := fun x hx hex => by
  by_cases hline : ∃ l < L.count, ∃ i < L.code.n, x = L.pos l i
  · obtain ⟨l, hl, i, hi, rfl⟩ := hline
    rw [hL.sweep_zero he l hl i hi] at hex
    cases hex
  · rw [(hL.sweep_rewrites (le_refl _) _).elsewhere x fun l hl i hi hpos => hline ⟨l, hl, i, hi, hpos⟩] at hex
    exact he x hx hex

end LineFamily

/-- One pass in either order leaves no error of one in the matrix. -/
theorem fixPass_zero (order : PassOrder) {e : Nat → Bool} {a : Nat} (he : OnlyError e a) :
    columns.Zero (fixPass order e).1 := by
  cases order with
  | columnsThenRows =>
    have hzero := columns_valid.sweep_zero (mf := (e, false)) he
    have hclean := dataRows_valid.clean_of_zero (dataRows_zero_of_columns hzero)
    rwa [fixPass_columnsThenRows, fixColumns_eq, fixRows_eq, dataRows_valid.sweep_of_clean (le_refl _) hclean]
  | rowsThenColumns =>
    rw [fixPass_rowsThenColumns, fixColumns_eq, fixRows_eq]
    exact columns_valid.sweep_zero (dataRows_valid.sweep_onlyError (mf := (e, false)) he)

/-- The pass that corrects an error sets `fixing`. -/
theorem fixPass_fixing (order : PassOrder) {e : Nat → Bool} {a : Nat} (he : OnlyError e a) (hpos : 0 < a)
    (hlt : a < 196) (hea : e a = true) : (fixPass order e).2 = true := by
  by_contra hfixing
  have hpass := fixPass_of_not_fixing (Bool.eq_false_iff.mpr hfixing)
  have hzero := fixPass_zero order he
  obtain ⟨c, hc, r, hr, rfl⟩ := exists_column_pos hpos hlt
  rw [hpass] at hzero
  exact Bool.false_ne_true ((hzero c hc r hr).symm.trans hea)

/-- The flip of raw bit e is an error at matrix position (13 * e) mod 196. -/
theorem onlyError_single {e : Nat} (he : e < 196) : OnlyError (matrixOf fun j => decide (j = e)) (13 * e % 196) :=
  fun _ hb h => (interleave_eq_iff hb he).mp (of_decide_eq_true h)

/-- BPTC_DEC on an encoded block with one error in its matrix. -/
theorem decodes_received_one {s u v : State} {p a : Nat} {err : Nat → Bool} (h : BptcDecodes u v p)
    (hu : ∀ j < 196, u.ibuf.bit j = ((bptcEncoded s).obuf.bit j ^^ err j)) (herr : OnlyError (matrixOf err) a)
    (hpos : 0 < a) (hlt : a < 196) (ha : matrixOf err a = true) :
    Reports v .corrected 2 ∧ OutputIs v 96 s.ibuf.bit := by
  have hblock := blockAfter_received hu 1
  have hzero : columns.Zero (afterPasses u.params.bptcOrder (matrixOf err) 1).1 := fixPass_zero _ herr
  have hfixing : (blockAfter u 1).2 = true := by
    rw [hblock]
    exact fixPass_fixing _ herr hpos hlt ha
  have hcode : BptcCodeword (blockAfter u 1).1 := by
    rw [hblock, bptcCodeword_withErrors (bptcEncoded_codeword s)]
    exact bptcCodeword_of_columns_zero hzero
  obtain ⟨hreports, hout⟩ := h.of_corrected hfixing hcode
  refine ⟨hreports, outputIs_congr hout fun i hi => ?_⟩
  rw [hblock, payload_withErrors s (dataRows_zero_of_columns hzero) hi]

/-- Settles O35: raw bit 0 is m[0], and every other bit is on a column. -/
theorem bptcCorrectsSingleErrors : Obligations.BptcCorrectsSingleErrors := by
  intro s t u e ht he hu
  obtain rfl := eq_bptcEncoded ht
  have honly := onlyError_single he
  refine ⟨_, exec_bptcDec u, ?_⟩
  by_cases h0 : e = 0
  · subst h0
    refine decodes_received_zero (bptcDecoded_decodes u) hu fun c hc r hr => Bool.eq_false_iff.mpr fun hone => ?_
    obtain ⟨hpos, hlt⟩ := columns_valid.pos_bounds hc hr
    exact hpos.ne' (honly _ hlt hone)
  · rw [if_neg h0, if_neg h0]
    have hlt : 13 * e % 196 < 196 := Nat.mod_lt _ (by decide)
    exact decodes_received_one (bptcDecoded_decodes u) hu honly (by omega) hlt
      (decide_eq_true ((interleave_eq_iff hlt he).mpr rfl))

/-! ### Two errors, columns first -/

/-- Every column but column c is free of errors. -/
def OneColumn (e : Nat → Bool) (c : Nat) : Prop :=
  ∀ c' < 15, c' ≠ c → ∀ r < 13, e (columns.pos c' r) = false

/-- Two errors lie, after the columns are corrected, in one column. -/
theorem fixColumns_oneColumn {mf : (Nat → Bool) × Bool} {a b : Nat}
    (he : ∀ x < 196, mf.1 x = true → x = a ∨ x = b) : OneColumn (fixColumns mf).1 ((a - 1) % 15) := by
  rw [fixColumns_eq]
  intro c hc hne r hr
  have hb : ∀ k < 13, mf.1 (columns.pos c k) = true → columns.pos c k = b := fun k hk hek =>
    (he _ (columns_valid.pos_bounds hc hk).2 hek).resolve_left fun hpos => hne <| by
      change c + 1 + 15 * k = a at hpos
      omega
  exact columns_valid.sweep_line_zero hc (fun i hi j hj hei hej =>
    (columns_valid.pos_inj hc hc hi hj ((hb i hi hei).trans (hb j hj hej).symm)).2) hr

/-- A correction of the columns leaves the other columns free of errors. -/
theorem OneColumn.fixColumns {e : Nat → Bool} {c : Nat} (he : OneColumn e c) :
    OneColumn (fixColumns (e, false)).1 c := by
  rw [fixColumns_eq]
  intro c' hc hne r hr
  exact columns_valid.sweep_line_zero hc
    (fun i hi _ _ hei _ => absurd ((he c' hc hne i hi).symm.trans hei) Bool.false_ne_true) hr

section

variable {mf : (Nat → Bool) × Bool} {c : Nat} (he : OneColumn mf.1 c)
include he

/-- Errors in one column are alone in their rows, so the row correction clears the data rows. -/
theorem OneColumn.fixRows_zero : dataRows.Zero (fixRows mf).1 := by
  rw [fixRows_eq]
  intro r hr i hi
  have hcolumn : ∀ k < 15, mf.1 (dataRows.pos r k) = true → k = c := fun k hk hek => by
    by_contra hne
    rw [← columns_pos_eq, he k hk hne r (Nat.lt_trans hr (by decide))] at hek
    cases hek
  exact dataRows_valid.sweep_line_zero hr
    (fun i hi j hj hei hej => (hcolumn i hi hei).trans (hcolumn j hj hej).symm) hi

/-- A correction of the rows makes no error in a check row. -/
theorem OneColumn.fixRows : OneColumn (fixRows mf).1 c := by
  intro c' hc hne r hr
  by_cases hdata : r < 9
  · rw [columns_pos_eq]
    exact he.fixRows_zero r hdata c' hc
  · rw [fixRows_eq, (dataRows_valid.sweep_rewrites (le_refl _) mf).elsewhere, he c' hc hne r hr]
    intro r' hr' i hi hpos
    rw [← columns_pos_eq] at hpos
    obtain ⟨-, rfl⟩ := columns_valid.pos_inj hc hi hr (Nat.lt_trans hr' (by decide)) hpos
    exact hdata hr'

end

theorem afterPasses_columnsThenRows (e : Nat → Bool) (n : Nat) :
    afterPasses .columnsThenRows e (n + 1) = fixRows (fixColumns ((afterPasses .columnsThenRows e n).1, false)) := rfl

/-- After every pass, columns first, two errors lie in the check rows of one column. -/
theorem afterPasses_two_errors {e : Nat → Bool} {a b : Nat} (he : ∀ x < 196, e x = true → x = a ∨ x = b) (n : Nat) :
    OneColumn (afterPasses .columnsThenRows e (n + 1)).1 ((a - 1) % 15) ∧
      dataRows.Zero (afterPasses .columnsThenRows e (n + 1)).1 := by
  have hcolumn : OneColumn (fixColumns ((afterPasses .columnsThenRows e n).1, false)).1 ((a - 1) % 15) := by
    induction n with
    | zero => exact fixColumns_oneColumn he
    | succ n ih =>
      rw [afterPasses_columnsThenRows]
      exact ih.fixRows.fixColumns
  rw [afterPasses_columnsThenRows]
  exact ⟨hcolumn.fixRows, hcolumn.fixRows_zero⟩

/-- The flips of raw bits e and f are errors at their two matrix positions. -/
theorem matrixOf_pair {e f : Nat} (he : e < 196) (hf : f < 196) :
    ∀ x < 196, matrixOf (fun j => decide (j = e) || decide (j = f)) x = true → x = 13 * e % 196 ∨ x = 13 * f % 196 := by
  intro x hx h
  rw [matrixOf, Bool.or_eq_true, decide_eq_true_iff, decide_eq_true_iff] at h
  exact h.imp (interleave_eq_iff hx he).mp (interleave_eq_iff hx hf).mp

/-- Settles O36: whatever pass the loop ends with, no error is left in the data rows. -/
theorem bptcDoubleErrorPayload : Obligations.BptcDoubleErrorPayload := by
  intro s t u e f ht horder hef hf hu
  obtain rfl := eq_bptcEncoded ht
  have h := bptcDecoded_decodes u
  obtain ⟨n, hn⟩ : ∃ n, (bptcRunOf u).passes = n + 1 := ⟨_, (Nat.sub_add_cancel h.one_le).symm⟩
  obtain ⟨-, hzero⟩ := afterPasses_two_errors (matrixOf_pair (hef.trans hf) hf) n
  refine ⟨_, exec_bptcDec u, outputIs_congr h.output fun i hi => ?_⟩
  rw [blockAfter_received hu, horder, hn]
  exact payload_withErrors s hzero hi

end Sys2Proof.Machine
end

section
/-! PROOFS. The convolutional commands (45_convolutional.md R200 to R207): the code bits of CONV_ENC, the trellis as the
code's branches, the decoder's commands by their checks in order, and the walk of a chainback. -/

namespace Sys2Proof.Machine

open Sys2Proof.Claims

/-! ### CONV_ENC -/

theorem delayed_zero (x : Nat → Bool) (k : Nat) : delayed x k 0 = x k := if_pos (Nat.zero_le k)

theorem delayed_succ (x : Nat → Bool) (k j : Nat) : delayed x (k + 1) (j + 1) = delayed x k j := by
  simp [delayed]

theorem delayed_congr {x y : Nat → Bool} {k : Nat} (h : ∀ i ≤ k, x i = y i) (j : Nat) :
    delayed x k j = delayed y k j := by
  unfold delayed
  rw [h (k - j) (Nat.sub_le k j)]

theorem codeG1_congr {x y : Nat → Bool} {k : Nat} (h : ∀ i ≤ k, x i = y i) : codeG1 x k = codeG1 y k := by
  rw [codeG1, codeG1, h k le_rfl, delayed_congr h, delayed_congr h]

theorem codeG2_congr {x y : Nat → Bool} {k : Nat} (h : ∀ i ≤ k, x i = y i) : codeG2 x k = codeG2 y k := by
  rw [codeG2, codeG2, h k le_rfl, delayed_congr h, delayed_congr h, delayed_congr h]

/-- The registers hold the four bits before the input, so each code bit is a sum over the input with them in front. -/
theorem bitAt_convEncodeFrom {d : List Bool} {k : Nat} (hk : k < d.length) (e1 e2 e3 e4 : Bool) :
    let x := bitAt (e4 :: e3 :: e2 :: e1 :: d)
    bitAt (convEncodeFrom e1 e2 e3 e4 d) (2 * k) = (x (k + 4) ^^ x (k + 1) ^^ x k) ∧
      bitAt (convEncodeFrom e1 e2 e3 e4 d) (2 * k + 1) = (x (k + 4) ^^ x (k + 3) ^^ x (k + 2) ^^ x k) := by
  induction d generalizing k e1 e2 e3 e4 with
  | nil => exact absurd hk (Nat.not_lt_zero k)
  | cons y rest ih =>
    cases k with
    | zero => exact ⟨rfl, rfl⟩
    | succ k => exact ih (Nat.lt_of_succ_lt_succ hk) y e1 e2 e3

/-- Before the first input bit the registers hold 0 bits, as `delayed` reads them. -/
theorem bitAt_zeroRegisters (d : List Bool) (k : Nat) {j : Nat} (hj : j ≤ 4) :
    bitAt (false :: false :: false :: false :: d) (k + (4 - j)) = delayed (bitAt d) k j := by
  by_cases hjk : j ≤ k
  · rw [delayed, if_pos hjk, show k + (4 - j) = k - j + 4 by omega]
    rfl
  · rw [delayed, if_neg hjk]
    have hregister : k + (4 - j) < 4 := by omega
    interval_cases k + (4 - j) <;> rfl

/-- The code bits of R200, with the registers 0 at the start. -/
theorem bitAt_convEncode {d : List Bool} {k : Nat} (hk : k < d.length) :
    bitAt (convEncodeFrom false false false false d) (2 * k) = codeG1 (bitAt d) k ∧
      bitAt (convEncodeFrom false false false false d) (2 * k + 1) = codeG2 (bitAt d) k := by
  obtain ⟨hg1, hg2⟩ := bitAt_convEncodeFrom hk false false false false
  have hregister : ∀ j ≤ 4, bitAt (false :: false :: false :: false :: d) (k + (4 - j)) = delayed (bitAt d) k j :=
    fun _ => bitAt_zeroRegisters d k
  rw [hg1, hg2, codeG1, codeG2, ← delayed_zero (bitAt d) k, ← hregister 0 (by decide), ← hregister 1 (by decide),
    ← hregister 2 (by decide), ← hregister 3 (by decide), ← hregister 4 (by decide)]
  exact ⟨rfl, rfl⟩

theorem execConvEnc_of_badOperand {n : BitVec 16} (h : n = 0 ∨ 1024 < n.toNat) (s : State) :
    execConvEnc n s = .next (raiseFault .operand s) :=
  if_pos ((convEncBadOperand_iff n).mpr (h.imp_left (congrArg BitVec.toNat)))

theorem isFN_convEnc : IsFN 0x40 .convEnc := fun _ hop => decode_convEnc hop

/-- Settles O37: two code bits for each input bit, at an even and the following odd index. -/
theorem convEncodeEffect : Obligations.ConvEncodeEffect := by
  refine ⟨isFN_convEnc, fun s n => ⟨?fault, ?codeBits⟩⟩
  case fault => exact fun hbad => ⟨_, execConvEnc_of_badOperand hbad s, raiseFault_faultsWith .operand s⟩
  case codeBits =>
    intro hpos hmax
    refine ⟨_, execConvEnc_of_range hpos hmax s, ⟨rfl, rfl⟩, setResult_out_codecFrame ..,
      setResult_out_outputIs s (by simp) fun i hi => ?_⟩
    have hk : i / 2 < n.toNat := Nat.div_lt_of_lt_mul hi
    have hinput : ∀ j ≤ i / 2, bitAt (inputBits n.toNat s) j = s.ibuf.bit j :=
      fun j hj => bitAt_inputBits s (hj.trans_lt hk)
    obtain ⟨hg1, hg2⟩ := bitAt_convEncode (d := inputBits n.toNat s) (k := i / 2) (by rwa [inputBits_length])
    split_ifs with heven
    · rw [← codeG1_congr hinput, ← hg1, Nat.mul_div_cancel' (Nat.dvd_of_mod_eq_zero heven)]
    · rw [← codeG2_congr hinput, ← hg2, show 2 * (i / 2) + 1 = i by omega]

/-! ### CONV_START -/

/-- The state after CONV_START (R203). -/
def afterConvStart (s : State) : State :=
  setResult .ok 0 { s with pm := Vector.replicate 16 0, convDp := 0, convStarted := true }

theorem exec_convStart (s : State) : exec .convStart s = .next (afterConvStart s) := rfl

theorem afterConvStart_pm_getD (s : State) {i : Nat} (hi : i < 16) : (afterConvStart s).pm.getD i 0 = 0 := by
  simp [afterConvStart, Vector.getD, hi]

/-- Settles O38: each field is what the record update says of it. -/
theorem convStartEffect : Obligations.ConvStartEffect :=
  ⟨isF0_of_isBare (i := .convStart) rfl, fun s => ⟨_, exec_convStart s, ⟨rfl, rfl⟩,
    fun i => Vector.getElem_replicate i.isLt, rfl, rfl, rfl, rfl, ⟨rfl, rfl, rfl, rfl⟩, fun _ => rfl,
    ⟨rfl, fun _ => rfl⟩, ⟨rfl, rfl⟩, rfl, ⟨rfl, rfl, rfl, rfl, rfl, rfl, rfl, rfl⟩⟩⟩

/-! ### The trellis -/

theorem absDiff_eq_dist (a b : Nat) : absDiff a b = Claims.dist a b := by
  unfold absDiff Claims.dist
  omega

theorem branchMetric_eq_metricOf (q i s0 s1 : Nat) : branchMetric q i s0 s1 = metricOf q i s0 s1 := by
  rw [branchMetric, absDiff_eq_dist, absDiff_eq_dist]
  rfl

/-- A symbol is as far from one amplitude as it is short of the whole way from the other. -/
theorem dist_amplitude_not {q s : Nat} (hs : s ≤ q) (b : Bool) :
    Claims.dist (q * bit b) s + Claims.dist (q * bit !b) s = q := by
  unfold Claims.dist
  cases b with
  | false => simp [bit]; omega
  | true => simp [bit]; omega

/-- The other input bit has the complement code pair (R205). -/
theorem trellisCost_not {q s0 s1 : Nat} (h0 : s0 ≤ q) (h1 : s1 ≤ q) (p : Nat) (x : Bool) :
    trellisCost q p x s0 s1 + trellisCost q p (!x) s0 s1 = 2 * q := by
  have hg1 := dist_amplitude_not h0 (x ^^ p.testBit 2 ^^ p.testBit 3)
  have hg2 := dist_amplitude_not h1 (x ^^ p.testBit 0 ^^ p.testBit 1 ^^ p.testBit 3)
  simp only [trellisCost, Bool.not_xor]
  omega

/-- So has the predecessor with the other oldest bit (R205). -/
theorem trellisCost_add_eight {i : Nat} (hi : i < 8) (q : Nat) (x : Bool) (s0 s1 : Nat) :
    trellisCost q (i + 8) x s0 s1 = trellisCost q i (!x) s0 s1 := by
  have hbits : ∀ i < 8, (i + 8).testBit 0 = i.testBit 0 ∧ (i + 8).testBit 1 = i.testBit 1 ∧
      (i + 8).testBit 2 = i.testBit 2 ∧ (i + 8).testBit 3 = true ∧ i.testBit 3 = false := by decide
  obtain ⟨h0, h1, h2, h3, h3'⟩ := hbits i hi
  simp only [trellisCost, h0, h1, h2, h3, h3', Bool.xor_true, Bool.xor_false, Bool.not_xor]

/-- BT1 and BT2 are the code bits of the branch with input 0 (R206). -/
theorem trellisCost_false {i : Nat} (hi : i < 8) (q s0 s1 : Nat) :
    trellisCost q i false s0 s1 = branchMetric q i s0 s1 := by
  have htables : ∀ i < 8, bit (false ^^ i.testBit 2 ^^ i.testBit 3) = bt1.getD i 0 ∧
      bit (false ^^ i.testBit 0 ^^ i.testBit 1 ^^ i.testBit 3) = bt2.getD i 0 := by decide
  obtain ⟨hg1, hg2⟩ := htables i hi
  rw [branchMetric_eq_metricOf, metricOf, trellisCost, hg1, hg2]

theorem branchCost_eq_trellisCost {q s0 s1 i x : Nat} (h0 : s0 ≤ q) (h1 : s1 ≤ q) (hi : i < 8) (hx : x < 2) :
    branchCost q i x s0 s1 = trellisCost q i (decide (x = 1)) s0 s1 := by
  have hnot := trellisCost_not h0 h1 i false
  rw [trellisCost_false hi] at hnot
  interval_cases x
  · exact (trellisCost_false hi q s0 s1).symm
  · exact Nat.sub_eq_of_eq_add' hnot.symm

/-- Settles O40: the branch from t / 2 + 8 has the complement code pair of the one from t / 2. -/
theorem trellisFollowsTheCode : Obligations.TrellisFollowsTheCode := by
  intro pm q s0 s1 t h0 h1 ht
  have hi : t / 2 < 8 := by omega
  have hcost := branchCost_eq_trellisCost h0 h1 hi (Nat.mod_lt t two_pos)
  have hnot := trellisCost_not h0 h1 (t / 2) (decide (t % 2 = 1))
  refine ⟨by rw [acsLow, hcost], ?_⟩
  rw [acsHigh, hcost, trellisCost_add_eight hi, Nat.sub_eq_of_eq_add' hnot.symm]

/-! ### CONV_STEP -/

section

variable {s : State} {s0 s1 : BitVec 8}

theorem execConvStep_of_badOperand (h : s.params.convQ < s0.toNat ∨ s.params.convQ < s1.toNat) :
    execConvStep s0 s1 s = .next (raiseFault .operand s) :=
  if_pos ((convStepBadOperand_iff s.params s0 s1).mpr h)

theorem not_convStepBadOperand (h0 : s0.toNat ≤ s.params.convQ) (h1 : s1.toNat ≤ s.params.convQ) :
    ¬ convStepBadOperand s.params s0 s1 = true := by
  rw [convStepBadOperand_iff]
  omega

theorem execConvStep_of_notStarted (h0 : s0.toNat ≤ s.params.convQ) (h1 : s1.toNat ≤ s.params.convQ)
    (hstopped : s.convStarted = false) : execConvStep s0 s1 s = .next (raiseFault .sequence s) := by
  rw [execConvStep, if_neg (not_convStepBadOperand h0 h1), if_pos (by simp [hstopped])]

theorem execConvStep_of_full (h0 : s0.toNat ≤ s.params.convQ) (h1 : s1.toNat ≤ s.params.convQ)
    (hstarted : s.convStarted = true) (hfull : s.convDp = 180) :
    execConvStep s0 s1 s = .next (raiseFault .decisionFull s) := by
  rw [execConvStep, if_neg (not_convStepBadOperand h0 h1), if_neg (by simp [hstarted]), if_pos hfull]

end

/-- The decision words below 180 after a trellis step (R204). -/
theorem convStepState_dec_getD (s0 s1 : Nat) (s : State) {k : Nat} (hk : k < 180) :
    (convStepState s0 s1 s).dec.getD k 0 =
      if k = s.convDp then acsWord s.pm s.params.convQ s0 s1 else s.dec.getD k 0 := by
  have hget : ∀ v : Vector (BitVec 16) 180, v.getD k 0 = v[k] := fun v => by simp [Vector.getD, hk]
  rw [convStepState_dec]
  simp only [hget, Vector.getElem_setIfInBounds, eq_comm (a := k)]

/-- New state 2i + x belongs to butterfly i, with input x (R205). -/
theorem butterfly_div_mod (i : Nat) {x : Nat} (hx : x < 2) : (2 * i + x) / 2 = i ∧ (2 * i + x) % 2 = x := by omega

/-- The first candidate of new state 2i + x, as R205 writes it. -/
theorem acsLow_butterfly (pm : Vector (BitVec 16) 16) (q s0 s1 i : Nat) {x : Nat} (hx : x < 2) :
    acsLow pm q s0 s1 (2 * i + x) =
      (pm.getD i 0).toNat + (if x = 0 then metricOf q i s0 s1 else 2 * q - metricOf q i s0 s1) := by
  obtain ⟨hdiv, hmod⟩ := butterfly_div_mod i hx
  rw [acsLow, hdiv, hmod, branchCost, branchMetric_eq_metricOf]

/-- The second candidate of new state 2i + x, as R205 writes it. -/
theorem acsHigh_butterfly (pm : Vector (BitVec 16) 16) {q s0 s1 x : Nat} (h0 : s0 ≤ q) (h1 : s1 ≤ q) (i : Nat)
    (hx : x < 2) :
    acsHigh pm q s0 s1 (2 * i + x) =
      (pm.getD (i + 8) 0).toNat + (if x = 0 then 2 * q - metricOf q i s0 s1 else metricOf q i s0 s1) := by
  have hmetric : branchMetric q i s0 s1 ≤ 2 * q := branchCost_le i 0 h0 h1
  rw [branchMetric_eq_metricOf] at hmetric
  obtain ⟨hdiv, hmod⟩ := butterfly_div_mod i hx
  rw [acsHigh, hdiv, hmod, branchCost, branchMetric_eq_metricOf]
  split_ifs with hzero
  · rfl
  · rw [Nat.sub_sub_self hmetric]

/-- The survivor's metric, with the tie rule of R205 written out. -/
theorem acsMetric_eq_ite (pm : Vector (BitVec 16) 16) (q s0 s1 t : Nat) :
    acsMetric pm q s0 s1 t =
      if acsLow pm q s0 s1 t ≥ acsHigh pm q s0 s1 t then acsHigh pm q s0 s1 t else acsLow pm q s0 s1 t := by
  simp [acsMetric, acsDecision]

/-- The state after a CONV_STEP past its checks (R204). -/
def afterConvStep (s0 s1 : BitVec 8) (s : State) : State := setResult .ok 0 (convStepState s0.toNat s1.toNat s)

/-- The decoder and the free values' counter are all that a CONV_STEP changes, but for RESULT and AUX (R204). -/
theorem afterConvStep_frame (s0 s1 : BitVec 8) (s : State) :
    let t := afterConvStep s0 s1 s
    SameHost s t ∧ SameInput s t ∧ SameOutput s t ∧ SameFaults s t ∧ SameQueue s t ∧ SameJitter s t :=
  ⟨⟨rfl, rfl, rfl, rfl⟩, fun _ => rfl, ⟨rfl, fun _ => rfl⟩, ⟨rfl, rfl⟩, rfl, ⟨rfl, rfl, rfl, rfl, rfl, rfl, rfl, rfl⟩⟩

theorem isFS_convStep : IsFS 0x42 .convStep := fun _ hop => decode_convStep hop

/-- Settles O39: one equation of CONV_STEP for each case, and the candidates of each butterfly. -/
theorem convStepEffect : Obligations.ConvStepEffect := by
  refine ⟨isFS_convStep, fun s s0 s1 => ⟨?operand, ?sequence, ?full, ?step⟩⟩
  case operand => exact fun hbad => ⟨_, execConvStep_of_badOperand hbad, raiseFault_faultsWith .operand s⟩
  case sequence =>
    exact fun h0 h1 hstopped => ⟨_, execConvStep_of_notStarted h0 h1 hstopped, raiseFault_faultsWith .sequence s⟩
  case full =>
    exact fun h0 h1 hstarted hfull =>
      ⟨_, execConvStep_of_full h0 h1 hstarted hfull, raiseFault_faultsWith .decisionFull s⟩
  case step =>
    intro h0 h1 hstarted hroom
    obtain ⟨hhost, hinput, houtput, hfaults, hqueue, hjitter⟩ := afterConvStep_frame s0 s1 s
    refine ⟨_, execConvStep_of_checks h0 h1 hstarted hroom, ⟨rfl, rfl⟩, hstarted, rfl, fun k hk hne => ?others,
      hhost, hinput, houtput, hfaults, hqueue, hjitter, fun i hi x hx => ?butterfly⟩
    case others => exact (convStepState_dec_getD _ _ s hk).trans (if_neg hne)
    case butterfly =>
      have ht : 2 * i + x < 16 := by omega
      refine ⟨_, _, rfl, rfl, ?_⟩
      rw [← acsLow_butterfly s.pm s.params.convQ s0.toNat s1.toNat i hx, ← acsHigh_butterfly s.pm h0 h1 i hx,
        ← acsMetric_eq_ite]
      refine ⟨?decision, acsNew_toNat _ _ _ _ ht, fun hlarge => ?free⟩
      case decision =>
        rw [setResult_dec, convStepState_dec_getD _ _ s hroom, if_pos rfl, acsWord_getLsbD _ _ _ _ ht, acsDecision]
      case free =>
        rw [setResult_pm, convStepState_pm, acsNew_getD _ _ _ _ ht]
        exact storeMetric_of_ge _ _ hlarge

/-! ### CONV_CHAINBACK -/

theorem bit_le_one (b : Bool) : bit b ≤ 1 := by cases b <;> decide

/-- The trellis state in which a chainback from `dp` decisions reads its j-th decision (R207). -/
def walkState (dec : Vector (BitVec 16) 180) (dp : Nat) : Nat → Nat
  | 0 => 0
  | j + 1 => bit ((dec.getD (dp - 1 - j) 0).getLsbD (walkState dec dp j)) * 8 + walkState dec dp j / 2

/-- The j-th decision that a chainback from `dp` decisions reads (R207). -/
def walkBit (dec : Vector (BitVec 16) 180) (dp j : Nat) : Bool :=
  (dec.getD (dp - 1 - j) 0).getLsbD (walkState dec dp j)

theorem walkState_succ (dec : Vector (BitVec 16) 180) (dp j : Nat) :
    walkState dec dp (j + 1) = bit (walkBit dec dp j) * 8 + walkState dec dp j / 2 := rfl

theorem walkState_lt (dec : Vector (BitVec 16) 180) (dp j : Nat) : walkState dec dp j < 16 := by
  induction j with
  | zero => exact Nat.zero_lt_succ 15
  | succ j ih =>
    have hbit := bit_le_one (walkBit dec dp j)
    rw [walkState_succ]
    omega

/-- The new bit goes above the three that are left of the state. -/
theorem shifted_in_eq {st : Nat} (hst : st < 16) (b : Bool) : (b.toNat <<< 3) ||| (st >>> 1) = bit b * 8 + st / 2 := by
  have hlow : st >>> 1 < 2 ^ 3 := by
    rw [Nat.shiftRight_eq_div_pow]
    omega
  rw [← Nat.shiftLeft_add_eq_or_of_lt hlow, Nat.shiftLeft_eq, Nat.shiftRight_eq_div_pow, bit_eq_toNat]

/-- A walk that has read j decisions puts the next n, last read first, in front of what it has. -/
theorem chainback_eq_walk (dec : Vector (BitVec 16) 180) (dp n j : Nat) (acc : List Bool) :
    chainback dec n (dp - j) (walkState dec dp j) acc =
      (List.range n).map (fun i => walkBit dec dp (j + n - 1 - i)) ++ acc := by
  induction n generalizing j acc with
  | zero => rfl
  | succ n ih =>
    have hread : (dec.getD (dp - j - 1) 0).getLsbD (walkState dec dp j) = walkBit dec dp j := by
      rw [walkBit, Nat.sub_right_comm]
    have hearlier : j + 1 + n - 1 = j + (n + 1) - 1 := by omega
    have hlast : j + (n + 1) - 1 - n = j := by omega
    rw [chainback]
    simp only [hread]
    rw [shifted_in_eq (walkState_lt dec dp j), ← walkState_succ, Nat.sub_sub, ih, List.range_succ, List.map_append,
      List.append_assoc, List.map_singleton, hearlier, hlast]
    rfl

/-- The output bits of a chainback (R207). -/
theorem bitAt_chainback (dec : Vector (BitVec 16) 180) (dp : Nat) {n i : Nat} (hi : i < n) :
    bitAt (chainback dec n dp 0 []) i = walkBit dec dp (n - 1 - i) := by
  have hwalk := chainback_eq_walk dec dp n 0 []
  rw [List.append_nil, Nat.zero_add] at hwalk
  rw [show chainback dec n dp 0 [] = _ from hwalk, bitAt_map_range _ hi]

/-- The state after a CONV_CHAINBACK past its checks (R207). -/
def afterChainback (n : Nat) (s : State) : State :=
  setResult .ok 0 (out (chainback s.dec n s.convDp 0 []) { s with convDp := s.convDp - n })

theorem afterChainback_outputIs (n : Nat) (s : State) :
    OutputIs (afterChainback n s) n fun i => walkBit s.dec s.convDp (n - 1 - i) :=
  setResult_out_outputIs _ (chainback_length ..) fun _ hi => bitAt_chainback s.dec s.convDp hi

/-- The output and CONV_DP are all that a CONV_CHAINBACK changes, but for RESULT and AUX (R207). -/
theorem afterChainback_frame (n : Nat) (s : State) :
    let t := afterChainback n s
    SameHost s t ∧ SameInput s t ∧ SameFaults s t ∧ SameQueue s t ∧ SameJitter s t :=
  ⟨⟨rfl, rfl, rfl, rfl⟩, fun _ => rfl, ⟨rfl, rfl⟩, rfl, ⟨rfl, rfl, rfl, rfl, rfl, rfl, rfl, rfl⟩⟩

section

variable {s : State} {n : BitVec 16}

theorem execConvChainback_of_zero (hn : n = 0) : execConvChainback n s = .next (raiseFault .operand s) :=
  if_pos ((convChainbackBadOperand_iff n).mpr (congrArg BitVec.toNat hn))

theorem not_convChainbackBadOperand (hn : n ≠ 0) : ¬ convChainbackBadOperand n = true :=
  (convChainbackBadOperand_iff n).not.mpr (BitVec.toNat_ne_iff_ne.mpr hn)

theorem execConvChainback_of_notStarted (hn : n ≠ 0) (hstopped : s.convStarted = false) :
    execConvChainback n s = .next (raiseFault .sequence s) := by
  rw [execConvChainback, if_neg (not_convChainbackBadOperand hn), if_pos (by simp [hstopped])]

theorem execConvChainback_of_short (hn : n ≠ 0) (hstarted : s.convStarted = true) (hshort : s.convDp < n.toNat) :
    execConvChainback n s = .next (raiseFault .chainbackRange s) := by
  rw [execConvChainback, if_neg (not_convChainbackBadOperand hn), if_neg (by simp [hstarted]), if_pos hshort]

theorem execConvChainback_of_checks (hn : n ≠ 0) (hstarted : s.convStarted = true) (hstored : n.toNat ≤ s.convDp) :
    execConvChainback n s = .next (afterChainback n.toNat s) := by
  rw [execConvChainback, if_neg (not_convChainbackBadOperand hn), if_neg (by simp [hstarted]),
    if_neg (Nat.not_lt_of_le hstored)]
  rfl

end

theorem isFN_convChainback : IsFN 0x43 .convChainback := fun _ hop => decode_convChainback hop

/-- Settles O41: one equation of CONV_CHAINBACK for each case; the decisions read and their states are the walk's. -/
theorem convChainbackEffect : Obligations.ConvChainbackEffect := by
  refine ⟨isFN_convChainback, fun s n => ⟨?operand, ?sequence, ?range, ?walk⟩⟩
  case operand => exact fun hn => ⟨_, execConvChainback_of_zero hn, raiseFault_faultsWith .operand s⟩
  case sequence =>
    exact fun hn hstopped => ⟨_, execConvChainback_of_notStarted hn hstopped, raiseFault_faultsWith .sequence s⟩
  case range =>
    exact fun hn hstarted hshort =>
      ⟨_, execConvChainback_of_short hn hstarted hshort, raiseFault_faultsWith .chainbackRange s⟩
  case walk =>
    intro hn hstarted hstored
    obtain ⟨hhost, hinput, hfaults, hqueue, hjitter⟩ := afterChainback_frame n.toNat s
    exact ⟨_, execConvChainback_of_checks hn hstarted hstored, ⟨rfl, rfl⟩, rfl, hstarted, rfl, rfl, rfl, hhost, hinput,
      hfaults, hqueue, hjitter, walkBit s.dec s.convDp, walkState s.dec s.convDp, rfl, fun j _ => ⟨rfl, rfl⟩,
      afterChainback_outputIs n.toNat s⟩

end Sys2Proof.Machine
end

section
/-! PROOFS. Decoding an encoded and tailed message (45_convolutional.md R202, R208): the encoder's states are a path of
cost 0 through the trellis, the decoder's survivors along it are its own branches, and so the chainback walks it. -/

namespace Sys2Proof.Machine

open Sys2Proof.Claims

/-! ### The encoder's path -/

/-- The trellis state of the encoder before step k: its last four input bits, the most recent in bit 0 (R202). -/
def encoderState (x : Nat → Bool) (k : Nat) : Nat :=
  bit (delayed x k 1) + 2 * bit (delayed x k 2) + 4 * bit (delayed x k 3) + 8 * bit (delayed x k 4)

theorem encoderState_zero (x : Nat → Bool) : encoderState x 0 = 0 := rfl

theorem testBit_encoderState (x : Nat → Bool) (k : Nat) :
    (encoderState x k).testBit 0 = delayed x k 1 ∧ (encoderState x k).testBit 1 = delayed x k 2 ∧
      (encoderState x k).testBit 2 = delayed x k 3 ∧ (encoderState x k).testBit 3 = delayed x k 4 := by
  have hbits : ∀ a b c d : Bool, (bit a + 2 * bit b + 4 * bit c + 8 * bit d).testBit 0 = a ∧
      (bit a + 2 * bit b + 4 * bit c + 8 * bit d).testBit 1 = b ∧
      (bit a + 2 * bit b + 4 * bit c + 8 * bit d).testBit 2 = c ∧
      (bit a + 2 * bit b + 4 * bit c + 8 * bit d).testBit 3 = d := by decide
  exact hbits _ _ _ _

/-- A step shifts its input bit in at the bottom and the oldest bit out at the top (R200, R206). -/
theorem encoderState_succ (x : Nat → Bool) (k : Nat) :
    encoderState x (k + 1) % 2 = bit (x k) ∧
      encoderState x k = encoderState x (k + 1) / 2 + 8 * bit (delayed x k 4) ∧ encoderState x (k + 1) < 16 := by
  have h0 := bit_le_one (x k)
  have h1 := bit_le_one (delayed x k 1)
  have h2 := bit_le_one (delayed x k 2)
  have h3 := bit_le_one (delayed x k 3)
  simp only [encoderState, delayed_succ, delayed_zero]
  omega

/-- After four 0 bits the encoder is in state 0 again (R208). -/
theorem encoderState_of_tail {x : Nat → Bool} {n : Nat} (htail : ∀ k, n ≤ k → x k = false) :
    encoderState x (n + 4) = 0 := by
  have hdelayed : ∀ j ≤ 4, delayed x (n + 4) j = false := fun j hj => by
    rw [delayed, if_pos (by omega), htail _ (by omega)]
  rw [encoderState, hdelayed 1 (by decide), hdelayed 2 (by decide), hdelayed 3 (by decide), hdelayed 4 (by decide)]
  rfl

theorem symbol_toNat {q : Nat} (hq : q ≤ 127) (b : Bool) : (symbol q b).toNat = q * bit b := by
  cases b
  · rfl
  · rw [symbol, if_pos rfl, BitVec.toNat_ofNat, Nat.mod_eq_of_lt (by omega)]
    exact (Nat.mul_one q).symm

theorem symbol_le {q : Nat} (hq : q ≤ 127) (b : Bool) : (symbol q b).toNat ≤ q := by
  have hbit := Nat.mul_le_mul_left q (bit_le_one b)
  rwa [Nat.mul_one, ← symbol_toNat hq] at hbit

/-- The encoder's own branch has the received code pair. -/
theorem trellisCost_encoderState {q : Nat} (hq : q ≤ 127) (x : Nat → Bool) (k : Nat) :
    trellisCost q (encoderState x k) (x k) (symbol q (codeG1 x k)).toNat (symbol q (codeG2 x k)).toNat = 0 := by
  obtain ⟨h0, h1, h2, h3⟩ := testBit_encoderState x k
  have hdist : ∀ a, Claims.dist a a = 0 := fun a => by simp [Claims.dist]
  rw [trellisCost, h0, h1, h2, h3, symbol_toNat hq, symbol_toNat hq]
  exact congrArg₂ (· + ·) (hdist _) (hdist _)

/-- One trellis step along the encoder's path from metric 0: the other branch into the next state costs 2 * CONV_Q, so
the survivor is the path's, also at the start, where all metrics are 0. -/
theorem acs_encoderState {pm : Vector (BitVec 16) 16} {q : Nat} (hpos : 1 ≤ q) (hq : q ≤ 127) {x : Nat → Bool}
    {k : Nat} (hpm : pm.getD (encoderState x k) 0 = 0) :
    let s0 := (symbol q (codeG1 x k)).toNat
    let s1 := (symbol q (codeG2 x k)).toNat
    acsDecision pm q s0 s1 (encoderState x (k + 1)) = delayed x k 4 ∧
      acsMetric pm q s0 s1 (encoderState x (k + 1)) = 0 := by
  intro s0 s1
  have h0 : s0 ≤ q := symbol_le hq _
  have h1 : s1 ≤ q := symbol_le hq _
  obtain ⟨hinput, hfrom, hlt⟩ := encoderState_succ x k
  have hbit : decide (encoderState x (k + 1) % 2 = 1) = x k := by rw [hinput]; cases x k <;> rfl
  obtain ⟨hlow, hhigh⟩ := trellisFollowsTheCode pm q s0 s1 (encoderState x (k + 1)) h0 h1 hlt
  rw [hbit] at hlow hhigh
  have hpath : (pm.getD (encoderState x k) 0).toNat + trellisCost q (encoderState x k) (x k) s0 s1 = 0 := by
    rw [hpm, trellisCost_encoderState hq x k]
    rfl
  rw [hfrom] at hpath
  rw [acsMetric_eq_min, acsDecision]
  cases holdest : delayed x k 4 with
  | true =>
    rw [holdest] at hpath
    have hzero : acsHigh pm q s0 s1 (encoderState x (k + 1)) = 0 := hhigh.trans hpath
    simp [hzero]
  | false =>
    rw [holdest] at hpath
    have hzero : acsLow pm q s0 s1 (encoderState x (k + 1)) = 0 := hlow.trans hpath
    have hother : acsHigh pm q s0 s1 (encoderState x (k + 1)) ≠ 0 := by
      have hnot := trellisCost_not h0 h1 (encoderState x (k + 1) / 2) (x k)
      rw [hhigh, trellisCost_add_eight (by omega)]
      omega
    simp [hzero, hother]

/-! ### The decoder on the path -/

/-- The decoder after the first k code pairs of the input `x`: the encoder's state has metric 0, and the decision stored
for each state on the path is the oldest bit of the state before it (R206). -/
structure FollowsPath (q : Nat) (x : Nat → Bool) (k : Nat) (t : State) : Prop where
  convQ_eq : t.params.convQ = q
  started : t.convStarted = true
  stored : t.convDp = k
  metric_zero : t.pm.getD (encoderState x k) 0 = 0
  decisions : ∀ j < k, (t.dec.getD j 0).getLsbD (encoderState x (j + 1)) = delayed x j 4

theorem followsPath_afterConvStart (s : State) (x : Nat → Bool) :
    FollowsPath s.params.convQ x 0 (afterConvStart s) where
  convQ_eq := rfl
  started := rfl
  stored := rfl
  metric_zero := afterConvStart_pm_getD s (i := 0) (by decide)
  decisions := fun _ hj => absurd hj (Nat.not_lt_zero _)

/-- The CONV_STEP of the code pair of step k. -/
def pairStep (q : Nat) (x : Nat → Bool) (k : Nat) : Instr := .convStep (symbol q (codeG1 x k)) (symbol q (codeG2 x k))

theorem FollowsPath.step {q : Nat} {x : Nat → Bool} {k : Nat} {t : State} (h : FollowsPath q x k t) (hpos : 1 ≤ q)
    (hq : q ≤ 127) (hk : k < 180) : ∃ t', exec (pairStep q x k) t = .next t' ∧ FollowsPath q x (k + 1) t' := by
  obtain ⟨rfl, hstarted, rfl, hmetric, hdecisions⟩ := h
  obtain ⟨hdecision, hsum⟩ := acs_encoderState hpos hq hmetric
  obtain ⟨-, -, hlt⟩ := encoderState_succ x t.convDp
  refine ⟨_, execConvStep_of_checks (symbol_le hq _) (symbol_le hq _) hstarted hk,
    rfl, hstarted, rfl, ?metric, fun j hj => ?dec⟩
  case metric =>
    refine BitVec.eq_of_toNat_eq ?_
    rw [setResult_pm, convStepState_pm, acsNew_toNat _ _ _ _ hlt (by omega), hsum]
    rfl
  case dec =>
    rw [setResult_dec, convStepState_dec_getD _ _ t (by omega)]
    split_ifs with hlast
    · rw [hlast, acsWord_getLsbD _ _ _ _ hlt, hdecision]
    · exact hdecisions j (by omega)

theorem execAll_append {xs ys : List Instr} {s t : State} (h : execAll xs s = .next t) :
    execAll (xs ++ ys) s = execAll ys t := by
  induction xs generalizing s with
  | nil => rw [next_inj.mp h, List.nil_append]
  | cons i xs ih =>
    obtain ⟨u, hu, -⟩ := exec_completes i s
    rw [execAll, hu] at h
    rw [List.cons_append, execAll, hu]
    exact ih h

theorem execAll_singleton {i : Instr} {s t : State} (h : exec i s = .next t) : execAll [i] s = .next t := by
  rw [execAll, h]
  rfl

/-- The code pairs of up to 180 steps, from CONV_START on. -/
theorem execAll_pairSteps (s : State) (x : Nat → Bool) {k : Nat} (hpos : 1 ≤ s.params.convQ) (hq : s.params.convQ ≤ 127)
    (hk : k ≤ 180) :
    ∃ t, execAll ((List.range k).map (pairStep s.params.convQ x)) (afterConvStart s) = .next t ∧
      FollowsPath s.params.convQ x k t := by
  induction k with
  | zero => exact ⟨_, rfl, followsPath_afterConvStart s x⟩
  | succ k ih =>
    obtain ⟨t, hrun, hpath⟩ := ih (Nat.le_of_succ_le hk)
    obtain ⟨t', hstep, hpath'⟩ := hpath.step hpos hq hk
    refine ⟨t', ?_, hpath'⟩
    rw [List.range_succ, List.map_append, execAll_append hrun]
    exact execAll_singleton hstep

/-! ### The chainback along the path -/

/-- A walk back from a path that ends in state 0 stays on the path. -/
theorem FollowsPath.walkState_eq {q : Nat} {x : Nat → Bool} {k : Nat} {t : State} (h : FollowsPath q x k t)
    (hend : encoderState x k = 0) {j : Nat} (hj : j ≤ k) : walkState t.dec k j = encoderState x (k - j) := by
  induction j with
  | zero => exact hend.symm
  | succ j ih =>
    have hnext : k - j = k - 1 - j + 1 := by omega
    obtain ⟨-, hfrom, -⟩ := encoderState_succ x (k - 1 - j)
    have hdecision : walkBit t.dec k j = delayed x (k - 1 - j) 4 := by
      rw [walkBit, ih (Nat.le_of_succ_le hj), hnext]
      exact h.decisions _ (by omega)
    rw [walkState_succ, hdecision, ih (Nat.le_of_succ_le hj), hnext, show k - (j + 1) = k - 1 - j by omega, hfrom]
    omega

theorem FollowsPath.walkBit_eq {q : Nat} {x : Nat → Bool} {k : Nat} {t : State} (h : FollowsPath q x k t)
    (hend : encoderState x k = 0) {j : Nat} (hj : j < k) : walkBit t.dec k j = delayed x (k - 1 - j) 4 := by
  rw [walkBit, h.walkState_eq hend hj.le, show k - j = k - 1 - j + 1 by omega]
  exact h.decisions _ (by omega)

/-- Settles O42: the path of the tailed message ends in state 0, and its decisions are the message, four steps late. -/
theorem convRoundTrip : Obligations.ConvRoundTrip := by
  intro s n u hlegal hn hmax
  obtain ⟨-, -, -, -, -, -, -, -, -, -, -, -, hpos, hq⟩ := (Params.legal_iff _).mp hlegal
  generalize hx : (fun k => decide (k < n) && u k) = x
  have htail : ∀ k, n ≤ k → x k = false := fun k hk => by simp [← hx, Nat.not_lt_of_le hk]
  obtain ⟨t, hrun, hpath⟩ := execAll_pairSteps s x (k := n + 4) hpos hq (by omega)
  have hend := encoderState_of_tail htail
  have hnumber : (BitVec.ofNat 16 n).toNat = n := by rw [BitVec.toNat_ofNat, Nat.mod_eq_of_lt (by omega)]
  have hchain : exec (.convChainback (BitVec.ofNat 16 n)) t = .next (afterChainback n t) := by
    have hnonzero : BitVec.ofNat 16 n ≠ 0 := fun hzero => by
      rw [hzero] at hnumber
      exact absurd hnumber.symm (Nat.ne_of_gt hn)
    have hwalk := execConvChainback_of_checks hnonzero hpath.started (by rw [hnumber, hpath.stored]; omega)
    rwa [hnumber] at hwalk
  refine ⟨afterChainback n t, ?run, ⟨rfl, rfl⟩, ?message, ?metric, ?dp⟩
  case run => exact (execAll_append hrun).trans (execAll_singleton hchain)
  case message =>
    refine outputIs_congr (afterChainback_outputIs n t) fun i hi => ?_
    rw [hpath.stored, hpath.walkBit_eq hend (by omega), show n + 4 - 1 - (n - 1 - i) = i + 4 by omega, delayed,
      if_pos (Nat.le_add_left 4 i), Nat.add_sub_cancel, ← hx]
    simp [hi]
  case metric =>
    have hmetric := hpath.metric_zero
    rwa [hend] at hmetric
  case dp => exact (congrArg (· - n) hpath.stored).trans (Nat.add_sub_cancel_left n 4)

end Sys2Proof.Machine
end

section
/-! PROOFS. The jitter buffer (46_jitter_buffer.md R230 to R235, R237): what each of its commands does, where a frame
goes, and what the other commands leave of its slots. -/

namespace Sys2Proof.Machine

open Sys2Proof.Claims

/-! ### All but the jitter buffer -/

/-- `s` with the jitter buffer, the output, RESULT and AUX of `t`. -/
def State.withJitterOf (s t : State) : State :=
  { s with
    result := t.result
    aux := t.aux
    olen := t.olen
    obuf := t.obuf
    jbSlots := t.jbSlots
    jbH := t.jbH
    jbSeq0 := t.jbSeq0
    jbArmed := t.jbArmed
    jbElapsed := t.jbElapsed
    jbLast := t.jbLast
    jbLastValid := t.jbLastValid
    jbRepeats := t.jbRepeats }

theorem jitterFrame_of_withJitterOf {s t : State} (h : t = s.withJitterOf t) : JitterFrame s t := by
  rw [h]
  exact ⟨⟨rfl, rfl, rfl, rfl⟩, fun _ => rfl, ⟨rfl, rfl⟩, rfl, ⟨rfl, rfl, rfl, rfl, rfl⟩⟩

/-! ### JB_RESET and JB_CLOCK -/

/-- Settles O45: JB_RESET is `clearJitter`, which has every slot empty. -/
theorem jbResetEffect : Obligations.JbResetEffect := by
  refine ⟨isF0_of_isBare (i := .jbReset) rfl, fun s => ⟨_, rfl, ⟨rfl, rfl⟩, ?_⟩⟩
  obtain ⟨hlength, hempty⟩ := clearJitter_slots_empty s
  exact ⟨hlength, hempty, rfl, rfl, rfl, rfl, rfl, rfl, rfl, ⟨rfl, rfl, rfl, rfl⟩, fun _ => rfl, ⟨rfl, fun _ => rfl⟩,
    ⟨rfl, rfl⟩, rfl, ⟨rfl, rfl, rfl, rfl, rfl⟩⟩

/-- The state after a JB_CLOCK (R235). -/
def afterJbClock (ms : BitVec 16) (s : State) : State :=
  setResult .ok 0
    { s with jbElapsed := if s.jbArmed then min (s.jbElapsed + ms.toNat) (2 ^ 32 - 1) else s.jbElapsed }

theorem exec_jbClock (ms : BitVec 16) (s : State) : exec (.jbClock ms) s = .next (afterJbClock ms s) := by
  show execJbClock ms s = _
  unfold execJbClock afterJbClock
  split_ifs <;> rfl

theorem isFN_jbClock : IsFN 0x53 .jbClock := fun _ hop => decode_jbClock hop

/-- Settles O50: JB_ELAPSED is the one field that `afterJbClock` replaces. -/
theorem jbClockEffect : Obligations.JbClockEffect :=
  ⟨isFN_jbClock, fun s ms => ⟨_, exec_jbClock ms s, ⟨rfl, rfl⟩, rfl, rfl, rfl, rfl, rfl, rfl, rfl, rfl,
    ⟨rfl, fun _ => rfl⟩, jitterFrame_of_withJitterOf rfl⟩⟩

/-! ### Distances from the head -/

theorem modSub_cast (a b : Nat) {m : Nat} (hm : 0 < m) : (modSub a b m : Int) = ((a : Int) - b) % m :=
  Int.toNat_of_nonneg (Int.emod_nonneg _ (by omega))

theorem modSub_lt (a b : Nat) {m : Nat} (hm : 0 < m) : modSub a b m < m := by
  have hcast : (modSub a b m : Int) < m := modSub_cast a b hm ▸ Int.emod_lt_of_pos _ (by omega)
  exact_mod_cast hcast

theorem subMod_eq_modSub (a : Nat) {b m : Nat} (hb : b < m) : subMod a b m = modSub a b m := by
  have hcast := (subMod_eq a hb).trans (modSub_cast a b (Nat.zero_lt_of_lt hb)).symm
  exact_mod_cast hcast

/-- The distance from `h` to `a`, added to `h`, gives `a` (R233). -/
theorem add_modSub_mod (h : Nat) {a m : Nat} (ha : a < m) : (h + modSub a (h % m) m) % m = a := by
  have hcast : ((h + modSub a (h % m) m) % m : Int) = a := by
    rw [modSub_cast _ _ (Nat.zero_lt_of_lt ha), Int.natCast_mod, Int.sub_emod_emod, Int.add_emod_emod,
      add_sub_cancel]
    exact Int.emod_eq_of_lt (by omega) (by omega)
  exact_mod_cast hcast

/-- The number `k` behind `h` is at distance `m - k` from `h` (R233, 90_conflicts.md C13). -/
theorem modSub_behind (h : Nat) {k m : Nat} (hpos : 1 ≤ k) (hk : k ≤ m) : modSub (modSub h k m) (h % m) m = m - k := by
  have hm : 0 < m := by omega
  have hcast : (modSub (modSub h k m) (h % m) m : Int) = ((m - k : Nat) : Int) := by
    rw [modSub_cast _ _ hm, modSub_cast _ _ hm, Int.natCast_mod, ← Int.sub_emod, sub_sub_cancel_left,
      ← Int.add_emod_right, neg_add_eq_sub, ← Int.natCast_sub hk]
    exact Int.emod_eq_of_lt (by omega) (by omega)
  exact_mod_cast hcast

theorem jbDistance_eq_windowDistance {s : State} (seq : Nat) (hmod : 0 < s.params.jbSeqMod) :
    jbDistance seq s = windowDistance s seq :=
  subMod_eq_modSub seq (Nat.mod_lt _ hmod)

/-- In an armed buffer the frame at its distance from the head has its own sequence number (R230, R233). -/
theorem seqAhead_windowDistance {s : State} {seq : Nat} (harmed : s.jbArmed = true) (hseq : seq < s.params.jbSeqMod) :
    seqAhead s (windowDistance s seq) = seq := by
  rw [windowDistance, if_pos harmed]
  exact add_modSub_mod (s.jbSeq0 + s.jbH) hseq

/-- The first frame is at the head (R233). -/
theorem windowDistance_of_disarmed {s : State} (h : s.Inv) (harmed : s.jbArmed = false) {seq : Nat}
    (hseq : seq < s.params.jbSeqMod) : windowDistance s seq = 0 := by
  obtain ⟨hhead, -⟩ := h.disarmed harmed
  simp [windowDistance, harmed, hhead, modSub, Nat.mod_eq_of_lt hseq]

/-! ### JB_ADD -/

/-- The slot that a frame with sequence number `seq` goes to (R233). -/
def frameSlot (s : State) (seq : Nat) : Nat := (s.jbH + windowDistance s seq) % s.params.jbSlots

/-- The state after an accepted JB_ADD (R233). -/
def afterJbAdd (len : BitVec 8) (seq : BitVec 16) (s : State) : State :=
  setResult .ok 0
    { s with
      jbSlots := s.jbSlots.set (frameSlot s seq.toNat) (inputFrame s len.toNat)
      jbSeq0 := if s.jbArmed then s.jbSeq0 else seq.toNat
      jbArmed := true
      jbElapsed := if s.jbArmed then s.jbElapsed else 0 }

/-- The operands of a JB_ADD are in range (R233). -/
structure FrameInRange (len : BitVec 8) (seq : BitVec 16) (s : State) : Prop where
  nonzero : len ≠ 0
  len_le : len.toNat ≤ s.params.jbBlockBytes
  seq_lt : seq.toNat < s.params.jbSeqMod

/-- JB_ADD accepts the frame: it is inside the window and its slot is free (R233). -/
structure Accepts (len : BitVec 8) (seq : BitVec 16) (s : State) : Prop where
  range : FrameInRange len seq s
  inWindow : windowDistance s seq.toNat < s.params.jbSlots
  free : slot s (frameSlot s seq.toNat) = []

theorem setResult_jbStore (len : BitVec 8) (seq : BitVec 16) (s : State) :
    setResult .ok 0 (jbStore (frameSlot s seq.toNat) seq.toNat (inputFrame s len.toNat) s) = afterJbAdd len seq s := by
  cases harmed : s.jbArmed with
  | false => simp [jbStore, afterJbAdd, harmed]
  | true => simp [jbStore, afterJbAdd, setResult, harmed]

section

variable {s : State} {len : BitVec 8} {seq : BitVec 16}

theorem jbAddBadOperand_iff_not_inRange :
    jbAddBadOperand s.params len seq = true ↔ ¬ FrameInRange len seq s := by
  rw [jbAddBadOperand_iff, iff_not_comm]
  constructor
  · rintro ⟨hnonzero, hlen, hseq⟩
    have hpos : len.toNat ≠ 0 := BitVec.toNat_ne_iff_ne.mpr hnonzero
    omega
  · intro hgood
    exact ⟨fun hzero => hgood (.inl (congrArg BitVec.toNat hzero)), by omega, by omega⟩

theorem execJbAdd_of_not_inRange (h : ¬ FrameInRange len seq s) :
    execJbAdd len seq s = .next (raiseFault .operand s) :=
  if_pos (jbAddBadOperand_iff_not_inRange.mpr h)

/-- JB_ADD past its operand check, in terms of R233's distance. -/
theorem execJbAdd_of_inRange (h : FrameInRange len seq s) :
    execJbAdd len seq s =
      if s.params.jbSlots ≤ windowDistance s seq.toNat then .next (setResult .jbOutOfWindow 0 s)
      else if slot s (frameSlot s seq.toNat) ≠ [] then .next (setResult .jbDuplicate 0 s)
      else .next (afterJbAdd len seq s) := by
  rw [execJbAdd, if_neg (jbAddBadOperand_iff_not_inRange.not.mpr (not_not.mpr h)),
    jbDistance_eq_windowDistance _ (Nat.zero_lt_of_lt h.seq_lt), ← setResult_jbStore]
  rfl

theorem execJbAdd_of_outOfWindow (h : FrameInRange len seq s) (hfar : s.params.jbSlots ≤ windowDistance s seq.toNat) :
    execJbAdd len seq s = .next (setResult .jbOutOfWindow 0 s) := by
  rw [execJbAdd_of_inRange h, if_pos hfar]

theorem execJbAdd_of_duplicate (h : FrameInRange len seq s) (hnear : windowDistance s seq.toNat < s.params.jbSlots)
    (hheld : slot s (frameSlot s seq.toNat) ≠ []) : execJbAdd len seq s = .next (setResult .jbDuplicate 0 s) := by
  rw [execJbAdd_of_inRange h, if_neg (Nat.not_le_of_lt hnear), if_pos hheld]

theorem execJbAdd_of_accepts (h : Accepts len seq s) : execJbAdd len seq s = .next (afterJbAdd len seq s) := by
  rw [execJbAdd_of_inRange h.range, if_neg (Nat.not_le_of_lt h.inWindow), if_neg (not_not.mpr h.free)]

end

theorem isFLS_jbAdd : IsFLS 0x51 .jbAdd := fun _ hop => decode_jbAdd hop

/-- Settles O46: one equation of JB_ADD for each of R233's outcomes. -/
theorem jbAddEffect : Obligations.JbAddEffect := by
  refine ⟨isFLS_jbAdd, fun s len seq _ => ⟨fun hbad => ?fault, fun hnonzero hlen hseq => ?_⟩⟩
  case fault =>
    have hrange : ¬ FrameInRange len seq s := fun ⟨hnonzero, hlen, hseq⟩ =>
      hbad.elim hnonzero (Or.rec hlen.not_gt hseq.not_ge)
    exact ⟨_, execJbAdd_of_not_inRange hrange, raiseFault_faultsWith .operand s⟩
  have hrange : FrameInRange len seq s := ⟨hnonzero, hlen, hseq⟩
  refine ⟨fun hfar => ?outOfWindow, fun hnear => ⟨fun hheld => ?duplicate, fun hfree => ?accepted⟩⟩
  case outOfWindow => exact ⟨_, execJbAdd_of_outOfWindow hrange hfar, ⟨rfl, rfl⟩, setResult_onlyReports ..⟩
  case duplicate => exact ⟨_, execJbAdd_of_duplicate hrange hnear hheld, ⟨rfl, rfl⟩, setResult_onlyReports ..⟩
  case accepted =>
    exact ⟨_, execJbAdd_of_accepts ⟨hrange, hnear, hfree⟩, ⟨rfl, rfl⟩, rfl, rfl, rfl, rfl, rfl, rfl, rfl, rfl,
      ⟨rfl, fun _ => rfl⟩, jitterFrame_of_withJitterOf rfl⟩

/-! ### Slots -/

/-- The slots that indices name are the JB_SLOTS there are (R31). -/
theorem mod_lt_slots_length {s : State} (h : s.Inv) (a : Nat) : a % s.params.jbSlots < s.jbSlots.length := by
  obtain ⟨hslots, -⟩ := legal_bounds h.params_legal
  rw [h.slots_length]
  exact Nat.mod_lt _ hslots

section

variable {s : State}

theorem slot_afterJbAdd_self (h : s.Inv) (len : BitVec 8) (seq : BitVec 16) :
    slot (afterJbAdd len seq s) (frameSlot s seq.toNat) = inputFrame s len.toNat := by
  have hi : frameSlot s seq.toNat < s.jbSlots.length := mod_lt_slots_length h _
  simp [slot, afterJbAdd, hi]

theorem slot_afterJbAdd_ne (len : BitVec 8) {seq : BitVec 16} {j : Nat} (hj : frameSlot s seq.toNat ≠ j) :
    slot (afterJbAdd len seq s) j = slot s j := by
  simp [slot, afterJbAdd, List.getElem?_set_ne hj]

end

/-- Settles O47: the buffer is as after its reset, so the frame is at distance 0 and goes to slot 0. -/
theorem firstFrameAnchorsWindow : Obligations.FirstFrameAnchorsWindow := by
  intro s len seq h harmed hnonzero hlen hseq
  obtain ⟨hslots, -⟩ := legal_bounds h.params_legal
  obtain ⟨hhead, -, -, -, hempty⟩ := h.disarmed harmed
  have hslotEmpty : ∀ i, slot s i = [] := getD_of_forall hempty rfl
  have hdistance := windowDistance_of_disarmed h harmed hseq
  have hzero : frameSlot s seq.toNat = 0 := by simp [frameSlot, hdistance, hhead]
  have hanchor : (afterJbAdd len seq s).jbSeq0 = seq.toNat := if_neg (by simp [harmed])
  have haccepts : Accepts len seq s := ⟨⟨hnonzero, hlen, hseq⟩, hdistance.trans_lt hslots, hslotEmpty _⟩
  refine ⟨_, execJbAdd_of_accepts haccepts, rfl, hanchor, rfl, if_neg (by simp [harmed]), ?headSeq, ?first,
    fun i hi => ?others⟩
  case headSeq =>
    have hhead' : (afterJbAdd len seq s).jbH = 0 := hhead
    rw [State.jbHeadSeq, hanchor, hhead']
    exact Nat.mod_eq_of_lt hseq
  case first => exact hzero ▸ slot_afterJbAdd_self h len seq
  case others => rw [slot_afterJbAdd_ne len (hzero.trans_ne hi.symm), hslotEmpty]

/-- Settles O48: a frame k behind the head is at distance JB_SEQ_MOD - k. -/
theorem lateFramesRejected : Obligations.LateFramesRejected := by
  intro s len seq k h harmed hnonzero hlen hpos hk hbehind
  obtain ⟨hslots, hmod, -⟩ := legal_bounds h.params_legal
  have hseq : seq.toNat < s.params.jbSeqMod := hbehind.trans_lt (modSub_lt _ _ (by omega))
  have hdistance : windowDistance s seq.toNat = s.params.jbSeqMod - k := by
    rw [windowDistance, if_pos harmed, hbehind]
    exact modSub_behind _ hpos (by omega)
  have hfar : s.params.jbSlots ≤ windowDistance s seq.toNat := by omega
  exact ⟨_, execJbAdd_of_outOfWindow ⟨hnonzero, hlen, hseq⟩ hfar, ⟨rfl, rfl⟩, setResult_onlyReports ..⟩

/-! ### JB_GET -/

theorem headDue_iff (s : State) : HeadDue s ↔ s.jbRunning = true ∧ s.jbH ≤ s.jbDue := by
  simp [HeadDue, State.jbRunning, State.jbDue, and_assoc]

section

variable {s : State}

theorem notDue_iff : (!s.jbRunning || decide (s.jbH > s.jbDue)) = true ↔ ¬ HeadDue s := by
  rw [headDue_iff, not_and_or, Bool.or_eq_true, Bool.not_eq_true', Bool.not_eq_true, decide_eq_true_iff, Nat.not_le]

theorem execJbGet_of_not_due (hdue : ¬ HeadDue s) : execJbGet s = .next (setResult .jbNoData 0 (out [] s)) :=
  if_pos (notDue_iff.mpr hdue)

theorem execJbGet_of_max (hdue : HeadDue s) (hmax : s.jbH = 2 ^ 32 - 1) :
    execJbGet s = .next (raiseFault .counterLimit s) := by
  rw [execJbGet, if_neg (notDue_iff.not.mpr (not_not.mpr hdue))]
  exact if_pos hmax

/-- JB_GET with a due slot and room in JB_H (R234). -/
theorem execJbGet_of_due (hdue : HeadDue s) (hmax : s.jbH ≠ 2 ^ 32 - 1) :
    execJbGet s =
      if slot s (s.jbH % s.params.jbSlots) ≠ [] then .next (jbDeliver s)
      else if s.jbLastValid && decide (s.jbRepeats < s.params.jbRepeatLimit) then .next (jbRepeatLast s)
      else .next (jbMiss s) := by
  rw [execJbGet, if_neg (notDue_iff.not.mpr (not_not.mpr hdue))]
  exact if_neg hmax

theorem execJbGet_of_held (hdue : HeadDue s) (hmax : s.jbH ≠ 2 ^ 32 - 1)
    (hheld : slot s (s.jbH % s.params.jbSlots) ≠ []) : execJbGet s = .next (jbDeliver s) := by
  rw [execJbGet_of_due hdue hmax, if_pos hheld]

theorem execJbGet_of_repeat (hdue : HeadDue s) (hmax : s.jbH ≠ 2 ^ 32 - 1)
    (hempty : slot s (s.jbH % s.params.jbSlots) = []) (hvalid : s.jbLastValid = true)
    (hlimit : s.jbRepeats < s.params.jbRepeatLimit) : execJbGet s = .next (jbRepeatLast s) := by
  rw [execJbGet_of_due hdue hmax, if_neg (not_not.mpr hempty), if_pos (by simp [hvalid, hlimit])]

theorem execJbGet_of_miss (hdue : HeadDue s) (hmax : s.jbH ≠ 2 ^ 32 - 1)
    (hempty : slot s (s.jbH % s.params.jbSlots) = [])
    (hnone : s.jbLastValid = false ∨ s.params.jbRepeatLimit ≤ s.jbRepeats) : execJbGet s = .next (jbMiss s) := by
  have hrepeat : ¬ (s.jbLastValid && decide (s.jbRepeats < s.params.jbRepeatLimit)) = true := by
    rcases hnone with hvalid | hlimit
    · simp [hvalid]
    · simp [hlimit]
  rw [execJbGet_of_due hdue hmax, if_neg (not_not.mpr hempty), if_neg hrepeat]

/-- JB_DATA comes of a delivery alone (R234). -/
theorem execJbGet_eq_deliver {t : State} (hexec : execJbGet s = .next t) (hdata : t.result = .jbData) :
    HeadDue s ∧ slot s (s.jbH % s.params.jbSlots) ≠ [] ∧ t = jbDeliver s := by
  unfold execJbGet at hexec
  split_ifs at hexec with hnotDue hmax hheld hrepeat <;> obtain rfl := next_inj.mp hexec
  · cases hdata
  · rw [raiseFault_result] at hdata
    cases hdata
  · exact ⟨by_contra fun hdue => hnotDue (notDue_iff.mpr hdue), hheld, rfl⟩
  · cases hdata
  · cases hdata

end

/-- An output of no bits is one of no bytes (R11). -/
theorem setResult_out_nil_outputBytes (r : ResultCode) (a : Byte) (s : State) :
    OutputBytes (setResult r a (out [] s)) [] :=
  setResult_outBytes_outputBytes r a [] s

/-- The head counter and the output are all that a miss changes, and an output is none of the frame (R234). -/
theorem jbMiss_jitterFrame (s : State) : JitterFrame s (jbMiss s) :=
  jitterFrame_of_withJitterOf (t := { s with jbH := s.jbH + 1 }) rfl

/-- Settles O49: one equation of JB_GET for each of R234's outcomes. -/
theorem jbGetEffect : Obligations.JbGetEffect := by
  refine ⟨isF0_of_isBare (i := .jbGet) rfl, fun s _ => ⟨fun hdue => ?notDue, fun hdue hmax => ?limit,
    fun hdue hmax hheld => ?data, fun hdue hmax hempty hvalid hlimit => ?again, fun hdue hmax hempty hnone => ?missing⟩⟩
  case notDue =>
    exact ⟨_, execJbGet_of_not_due hdue, ⟨rfl, rfl⟩, setResult_out_nil_outputBytes ..,
      setResult_out_codecFrame ..⟩
  case limit => exact ⟨_, execJbGet_of_max hdue hmax, raiseFault_faultsWith .counterLimit s⟩
  case data =>
    exact ⟨_, execJbGet_of_held hdue hmax hheld, ⟨rfl, rfl⟩, setResult_outBytes_outputBytes .., rfl, rfl, rfl, rfl, rfl,
      rfl, rfl, rfl, jitterFrame_of_withJitterOf rfl⟩
  case again =>
    exact ⟨_, execJbGet_of_repeat hdue hmax hempty hvalid hlimit, ⟨rfl, rfl⟩, setResult_outBytes_outputBytes .., rfl,
      rfl, rfl, rfl, rfl, rfl, rfl, rfl, jitterFrame_of_withJitterOf rfl⟩
  case missing =>
    exact ⟨_, execJbGet_of_miss hdue hmax hempty hnone, ⟨rfl, rfl⟩, setResult_out_nil_outputBytes .., rfl,
      rfl, rfl, rfl, rfl, rfl, rfl, rfl, jbMiss_jitterFrame s⟩

/-! ### What the other commands leave of the buffer -/

/-- All of the jitter buffer but its time is unchanged. -/
def SameWindow (s t : State) : Prop :=
  t.jbSlots = s.jbSlots ∧ t.jbH = s.jbH ∧ t.jbSeq0 = s.jbSeq0 ∧ t.jbArmed = s.jbArmed ∧ t.jbLast = s.jbLast ∧
    t.jbLastValid = s.jbLastValid ∧ t.jbRepeats = s.jbRepeats

/-- A next state after the outcome `o` has the window of `s`. -/
def KeepsWindow (s : State) (o : Host.Outcome State Fault Refusal) : Prop := ∀ t, o = .next t → SameWindow s t

theorem keepsWindow_next {s t : State} (h : SameWindow s t) : KeepsWindow s (.next t) :=
  fun _ ht => next_inj.mp ht ▸ h

theorem keepsWindow_raiseFault (e : ErrCode) (s : State) : KeepsWindow s (.next (raiseFault e s)) :=
  keepsWindow_next (by simp [SameWindow])

theorem keepsWindow_ite {s : State} {c : Prop} [Decidable c] {o o' : Host.Outcome State Fault Refusal}
    (h : KeepsWindow s o) (h' : KeepsWindow s o') : KeepsWindow s (if c then o else o') := by
  split_ifs
  · exact h
  · exact h'

/-- A check before the outcome `o` adds a fault alone (R300). -/
theorem keepsWindow_check {s : State} {c : Prop} [Decidable c] {e : ErrCode} {o : Host.Outcome State Fault Refusal}
    (h : KeepsWindow s o) : KeepsWindow s (if c then .next (raiseFault e s) else o) :=
  keepsWindow_ite (keepsWindow_raiseFault e s) h

theorem keepsWindow_codec (r : ResultCode) (a : Byte) (d : List Bool) (s : State) :
    KeepsWindow s (.next (setResult r a (out d s))) :=
  keepsWindow_next ⟨rfl, rfl, rfl, rfl, rfl, rfl, rfl⟩

theorem keepsWindow_jbClock (ms : BitVec 16) (s : State) : KeepsWindow s (exec (.jbClock ms) s) := by
  rw [exec_jbClock]
  exact keepsWindow_next ⟨rfl, rfl, rfl, rfl, rfl, rfl, rfl⟩

theorem keepsWindow_qPop (s : State) : KeepsWindow s (execQPop s) := by
  cases hq : s.qdata with
  | nil =>
    rw [execQPop_of_nil hq]
    exact keepsWindow_codec _ _ _ s
  | cons n rest =>
    rw [execQPop_of_cons hq]
    exact keepsWindow_next ⟨rfl, rfl, rfl, rfl, rfl, rfl, rfl⟩

/-- The command takes no frame out of the jitter buffer (R234, R232, R101). -/
def TakesNoFrame (i : Instr) : Prop := i ≠ .jbGet ∧ i ≠ .jbReset ∧ i ≠ .clrAll

/-- Of the commands that take no frame out, JB_ADD alone changes more than the time. -/
theorem exec_keepsWindow {i : Instr} (htakes : TakesNoFrame i) (hadd : ∀ len seq, i ≠ .jbAdd len seq) (s : State) :
    KeepsWindow s (exec i s) := by
  obtain ⟨hget, hreset, hall⟩ := htakes
  have hsame : SameWindow s s := ⟨rfl, rfl, rfl, rfl, rfl, rfl, rfl⟩
  cases i with
  | jbGet => exact absurd rfl hget
  | jbReset => exact absurd rfl hreset
  | clrAll => exact absurd rfl hall
  | jbAdd len seq => exact absurd rfl (hadd len seq)
  | jbClock ms => exact keepsWindow_jbClock ms s
  | qPop => exact keepsWindow_qPop s
  | qPush len =>
    exact keepsWindow_check (keepsWindow_ite (keepsWindow_next hsame) (keepsWindow_next hsame))
  | convEnc n => exact keepsWindow_check (keepsWindow_codec _ _ _ s)
  | convStep s0 s1 => exact keepsWindow_check (keepsWindow_check (keepsWindow_check (keepsWindow_next hsame)))
  | convChainback n => exact keepsWindow_check (keepsWindow_check (keepsWindow_check (keepsWindow_next hsame)))
  | nop | qClear | convStart => exact keepsWindow_next hsame
  | _ => exact keepsWindow_codec _ _ _ s

/-- A JB_ADD accepts its frame, or answers something else than OK and changes nothing of the window (R233). -/
theorem execJbAdd_cases {len : BitVec 8} {seq : BitVec 16} {s t : State} (h : execJbAdd len seq s = .next t) :
    (SameWindow s t ∧ t.result ≠ .ok) ∨ (Accepts len seq s ∧ t = afterJbAdd len seq s) := by
  by_cases hrange : FrameInRange len seq s
  · rw [execJbAdd_of_inRange hrange] at h
    split_ifs at h with hfar hheld <;> obtain rfl := next_inj.mp h
    · exact .inl ⟨⟨rfl, rfl, rfl, rfl, rfl, rfl, rfl⟩, nofun⟩
    · exact .inl ⟨⟨rfl, rfl, rfl, rfl, rfl, rfl, rfl⟩, nofun⟩
    · exact .inr ⟨⟨hrange, Nat.lt_of_not_le hfar, not_not.mp hheld⟩, rfl⟩
  · rw [execJbAdd_of_not_inRange hrange] at h
    obtain rfl := next_inj.mp h
    exact .inl ⟨keepsWindow_raiseFault .operand s _ rfl, by simp⟩

/-- What a command that takes no frame out can do to the window: nothing, or store one frame in a free slot. -/
theorem exec_window_cases {i : Instr} {s t : State} (htakes : TakesNoFrame i) (h : exec i s = .next t) :
    SameWindow s t ∨ ∃ len seq, i = .jbAdd len seq ∧ Accepts len seq s ∧ t = afterJbAdd len seq s := by
  by_cases hadd : ∀ len seq, i ≠ .jbAdd len seq
  · exact .inl (exec_keepsWindow htakes hadd s t h)
  · push Not at hadd
    obtain ⟨len, seq, rfl⟩ := hadd
    exact (execJbAdd_cases h).imp And.left fun haccepts => ⟨len, seq, rfl, haccepts⟩

/-- Settles O52: the one slot that can change is a free one. -/
theorem acceptedFramesKept : Obligations.AcceptedFramesKept := by
  intro i s t j h hget hreset hall hheld
  rcases exec_window_cases ⟨hget, hreset, hall⟩ h with ⟨hslots, -⟩ | ⟨len, seq, -, haccepts, rfl⟩
  · rw [slot, slot, hslots]
  · refine slot_afterJbAdd_ne len ?_
    rintro rfl
    exact hheld haccepts.free

end Sys2Proof.Machine
end

section
/-! PROOFS. Silence fill (46_jitter_buffer.md R236): an invariant of the rounds of JB_GET over a gap of g slots, kept by
the commands before each JB_GET and by the filler it gives, and the frame after the gap, stored once and held to its
release. -/

namespace Sys2Proof.Machine

open Sys2Proof.Claims

/-! ### Commands among others -/

theorem accepted_cons {i : Instr} {cmds : List Instr} {s t : State} {seq : Nat} {f : List Byte}
    (h : exec i s = .next t) (haccepted : Accepted cmds t seq f) : Accepted (i :: cmds) s seq f := by
  obtain ⟨pre, len, q, post, x, y, rfl, hpre, hadd⟩ := haccepted
  exact ⟨i :: pre, len, q, post, x, y, rfl, by rw [execAll, h]; exact hpre, hadd⟩

theorem accepted_append {pre : List Instr} {s : State} {seq : Nat} {f : List Byte} (h : Accepted pre s seq f)
    (post : List Instr) : Accepted (pre ++ post) s seq f := by
  obtain ⟨pre', len, q, post', x, y, rfl, hadd⟩ := h
  exact ⟨pre', len, q, post' ++ post, x, y, by simp, hadd⟩

/-- A JB_ADD that accepts its frame is an acceptance in the commands that begin with it. -/
theorem Accepts.accepted {len : BitVec 8} {seq : BitVec 16} {s : State} (h : Accepts len seq s) (rest : List Instr) :
    Accepted (.jbAdd len seq :: rest) s seq.toNat (inputFrame s len.toNat) :=
  ⟨[], len, seq, rest, s, _, rfl, rfl, execJbAdd_of_accepts h, rfl, rfl, rfl⟩

/-- A frame stays in its slot over every sequence of commands that take no frame out (R237). -/
theorem execAll_slot_kept {cmds : List Instr} {s t : State} {j : Nat} (htakes : ∀ i ∈ cmds, TakesNoFrame i)
    (hexec : execAll cmds s = .next t) (hheld : slot s j ≠ []) : slot t j = slot s j := by
  induction cmds generalizing s with
  | nil => rw [next_inj.mp hexec]
  | cons i rest ih =>
    obtain ⟨u, hu, -⟩ := exec_completes i s
    rw [execAll, hu] at hexec
    obtain ⟨⟨hget, hreset, hall⟩, hrest⟩ := List.forall_mem_cons.mp htakes
    have hkept : slot u j = slot s j := acceptedFramesKept i s u j hu hget hreset hall hheld
    rw [ih hrest hexec (hkept ▸ hheld), hkept]

/-! ### The filler of an empty slot -/

/-- The answer of JB_GET to an empty due slot after a delivered frame (R234). -/
def filler (s : State) : State := if s.jbRepeats < s.params.jbRepeatLimit then jbRepeatLast s else jbMiss s

theorem execJbGet_eq_filler {s : State} (hdue : HeadDue s) (hmax : s.jbH ≠ 2 ^ 32 - 1)
    (hempty : slot s (s.jbH % s.params.jbSlots) = []) (hvalid : s.jbLastValid = true) :
    execJbGet s = .next (filler s) := by
  unfold filler
  split_ifs with hlimit
  · exact execJbGet_of_repeat hdue hmax hempty hvalid hlimit
  · exact execJbGet_of_miss hdue hmax hempty (.inr (Nat.le_of_not_lt hlimit))

/-- A filler leaves every slot and the last frame as they are, moves the head, and counts a repeat up to the limit. -/
theorem filler_fields (s : State) :
    let t := filler s
    t.params = s.params ∧ t.jbArmed = s.jbArmed ∧ t.jbSeq0 = s.jbSeq0 ∧ t.jbH = s.jbH + 1 ∧ t.jbSlots = s.jbSlots ∧
      t.jbLast = s.jbLast ∧ t.jbLastValid = s.jbLastValid ∧
      t.jbRepeats = if s.jbRepeats < s.params.jbRepeatLimit then s.jbRepeats + 1 else s.jbRepeats := by
  unfold filler
  split_ifs <;> exact ⟨rfl, rfl, rfl, rfl, rfl, rfl, rfl, rfl⟩

/-! ### A round of the gap -/

/-- The slot of the frame `b` slots after the head of `v` (R230). -/
def slotAhead (v : State) (b : Nat) : Nat := (v.jbH + b) % v.params.jbSlots

/-- The state `s` is in round `a` of the gap of `g` slots that begins at the head of `v`: JB_GET has given `a` fillers
since the frame that `v` remembers as its last, and the slots of the gap that lie inside the window are empty. -/
structure InGap (v : State) (g a : Nat) (s : State) : Prop where
  inv : s.Inv
  params_eq : s.params = v.params
  armed : s.jbArmed = true
  seq0_eq : s.jbSeq0 = v.jbSeq0
  head_eq : s.jbH = v.jbH + a
  last_eq : s.jbLast = v.jbLast
  lastValid : s.jbLastValid = true
  repeats_eq : s.jbRepeats = min a v.params.jbRepeatLimit
  slots_empty : ∀ b < g, a ≤ b → b < a + v.params.jbSlots → slot s (slotAhead v b) = []

/-- Two slots ahead that both lie inside one window are different slots. -/
theorem slotAhead_ne {v : State} {a b c : Nat} (hb : a ≤ b) (hbc : b < c) (hc : c < a + v.params.jbSlots) :
    slotAhead v c ≠ slotAhead v b := fun heq => by
  have hdvd : v.params.jbSlots ∣ c - b := by
    have := (Nat.modEq_iff_dvd' (show v.jbH + b ≤ v.jbH + c by omega)).mp (Eq.symm heq : _ % _ = _ % _)
    rwa [Nat.add_sub_add_left] at this
  exact absurd (Nat.le_of_dvd (by omega) hdvd) (by omega)

/-- One window further on, a slot comes round again (R230). -/
theorem slotAhead_add_jbSlots (v : State) (b : Nat) : slotAhead v (b + v.params.jbSlots) = slotAhead v b := by
  rw [slotAhead, ← Nat.add_assoc, Nat.add_mod_right, slotAhead]

namespace InGap

variable {v s t : State} {g a : Nat}

theorem slotAhead_eq (h : InGap v g a s) (d : Nat) : slotAhead s d = slotAhead v (a + d) := by
  rw [slotAhead, h.params_eq, h.head_eq, Nat.add_assoc, slotAhead]

theorem seqAhead_eq (h : InGap v g a s) (d : Nat) : seqAhead s d = seqAhead v (a + d) := by
  rw [seqAhead, h.params_eq, h.seq0_eq, h.head_eq, seqAhead]
  congr 1
  omega

/-- The head slot of a state in round `a`. -/
theorem headSlot_eq (h : InGap v g a s) : s.jbH % s.params.jbSlots = slotAhead v a := h.slotAhead_eq 0

theorem headSlot_empty (h : InGap v g a s) (ha : a < g) : slot s (s.jbH % s.params.jbSlots) = [] := by
  obtain ⟨hslots, -⟩ := legal_bounds (h.params_eq ▸ h.inv.params_legal)
  rw [h.headSlot_eq]
  exact h.slots_empty a ha le_rfl (by omega)

/-- A frame accepted in round `a`, at distance `d` from the head, is the frame `a + d` after the head of `v` (R230). -/
theorem seq_of_accepts (h : InGap v g a s) {len : BitVec 8} {seq : BitVec 16} (haccepts : Accepts len seq s) :
    seqAhead v (a + windowDistance s seq.toNat) = seq.toNat := by
  rw [← h.seqAhead_eq]
  exact seqAhead_windowDistance h.armed haccepts.range.seq_lt

/-! ### The commands before a JB_GET -/

theorem of_sameWindow (h : InGap v g a s) (hinv : t.Inv) (hparams : t.params = s.params) (hsame : SameWindow s t) :
    InGap v g a t := by
  obtain ⟨hslots, hhead, hseq0, harmed, hlast, hvalid, hrepeats⟩ := hsame
  refine ⟨hinv, hparams.trans h.params_eq, harmed.trans h.armed, hseq0.trans h.seq0_eq, hhead.trans h.head_eq,
    hlast.trans h.last_eq, hvalid.trans h.lastValid, hrepeats.trans h.repeats_eq, fun b hb hab hwindow => ?_⟩
  rw [slot, hslots]
  exact h.slots_empty b hb hab hwindow

/-- A frame that is none of the gap's goes to a slot that is none of the gap's. -/
theorem after_jbAdd (h : InGap v g a s) {len : BitVec 8} {seq : BitVec 16} (hinv : (afterJbAdd len seq s).Inv)
    (haccepts : Accepts len seq s) (hnot : ∀ b < g, seqAhead v b ≠ seq.toNat) :
    InGap v g a (afterJbAdd len seq s) := by
  have hafter : g ≤ a + windowDistance s seq.toNat :=
    Nat.le_of_not_lt fun hlt => hnot _ hlt (h.seq_of_accepts haccepts)
  refine ⟨hinv, h.params_eq, rfl, (if_pos h.armed).trans h.seq0_eq, h.head_eq, h.last_eq, h.lastValid, h.repeats_eq,
    fun b hb hab hwindow => ?_⟩
  have hinWindow := haccepts.inWindow
  rw [h.params_eq] at hinWindow
  have hne : frameSlot s seq.toNat ≠ slotAhead v b := by
    rw [show frameSlot s seq.toNat = _ from h.slotAhead_eq _]
    exact slotAhead_ne hab (by omega) (by omega)
  rw [slot_afterJbAdd_ne len hne]
  exact h.slots_empty b hb hab hwindow

/-- The commands before a JB_GET keep the round, as long as they store no frame of the gap. -/
theorem after_commands {cmds : List Instr} (h : InGap v g a s) (htakes : ∀ i ∈ cmds, TakesNoFrame i)
    (hnot : ∀ b < g, ∀ f, ¬ Accepted cmds s (seqAhead v b) f) (hexec : execAll cmds s = .next t) : InGap v g a t := by
  induction cmds generalizing s with
  | nil => exact next_inj.mp hexec ▸ h
  | cons i rest ih =>
    obtain ⟨u, hu, heffect⟩ := exec_completes i s
    rw [execAll, hu] at hexec
    obtain ⟨htake, hrest⟩ := List.forall_mem_cons.mp htakes
    refine ih ?_ hrest (fun b hb f hf => hnot b hb f (accepted_cons hu hf)) hexec
    rcases exec_window_cases htake hu with hsame | ⟨len, seq, rfl, haccepts, rfl⟩
    · exact h.of_sameWindow (heffect.inv h.inv) heffect.params_eq hsame
    · exact h.after_jbAdd (heffect.inv h.inv) haccepts fun b hb heq => hnot b hb _ (heq ▸ haccepts.accepted rest)

/-! ### The frame after the gap -/

/-- If the frame after the gap is accepted, then at the distance of its slot: no frame before it is accepted, and a
whole turn of the sequence numbers does not fit the window (R8, R230). -/
theorem distance_of_accepts (h : InGap v g a s) (ha : a ≤ g) {len : BitVec 8} {seq : BitVec 16}
    (haccepts : Accepts len seq s) (hseq : seq.toNat = seqAhead v g) (hnot : ∀ b < g, seqAhead v b ≠ seq.toNat) :
    a + windowDistance s seq.toNat = g := by
  obtain ⟨-, hslots, -⟩ := legal_bounds h.inv.params_legal
  have hwindow := haccepts.inWindow
  have heq := h.seq_of_accepts haccepts
  have hafter : g ≤ a + windowDistance s seq.toNat := Nat.le_of_not_lt fun hlt => hnot _ hlt heq
  have hcongr : seqAhead v g = seqAhead v (a + windowDistance s seq.toNat) := (heq.trans hseq).symm
  have hdvd := (Nat.modEq_iff_dvd' (Nat.add_le_add_left hafter (v.jbSeq0 + v.jbH))).mp hcongr
  rw [Nat.add_sub_add_left, ← h.params_eq] at hdvd
  have := Nat.eq_zero_of_dvd_of_lt hdvd (by omega)
  omega

/-- The frame after the gap, once accepted, is in its slot when the JB_GET of the round comes. -/
theorem slot_of_accepted {cmds : List Instr} {f : List Byte} (h : InGap v g a s) (ha : a ≤ g)
    (htakes : ∀ i ∈ cmds, TakesNoFrame i) (hnot : ∀ b < g, ∀ f, ¬ Accepted cmds s (seqAhead v b) f)
    (hexec : execAll cmds s = .next t) (haccepted : Accepted cmds s (seqAhead v g) f) :
    slot t (slotAhead v g) = f ∧ f ≠ [] := by
  obtain ⟨pre, len, q, post, x, y, rfl, hpre, hadd, hok, hseq, rfl⟩ := haccepted
  obtain ⟨htakesPre, htakesPost⟩ := List.forall_mem_append.mp htakes
  rw [execAll_append hpre, execAll, hadd] at hexec
  have hx : InGap v g a x := h.after_commands htakesPre (fun b hb f hf => hnot b hb f (accepted_append hf _)) hpre
  obtain ⟨haccepts, rfl⟩ := (execJbAdd_cases hadd).resolve_left fun hrejected => hrejected.2 hok
  have hdistance : a + windowDistance x q.toNat = g := hx.distance_of_accepts ha haccepts hseq fun b hb heq =>
    hnot b hb _ ⟨pre, len, q, post, x, _, rfl, hpre, hadd, hok, heq.symm, rfl⟩
  have hslot : frameSlot x q.toNat = slotAhead v g := (hx.slotAhead_eq _).trans (congrArg _ hdistance)
  have hstored : slot (afterJbAdd len q x) (slotAhead v g) = inputFrame x len.toNat :=
    hslot ▸ slot_afterJbAdd_self hx.inv len q
  have hnonempty : inputFrame x len.toNat ≠ [] := by
    rw [← List.length_pos_iff, inputFrame_length]
    exact Nat.pos_of_ne_zero (BitVec.toNat_ne_iff_ne.mpr haccepts.range.nonzero)
  refine ⟨?_, hnonempty⟩
  rw [execAll_slot_kept (List.forall_mem_cons.mp htakesPost).2 hexec (hstored ▸ hnonempty), hstored]

/-! ### The JB_GET of a round -/

theorem after_filler (h : InGap v g a s) (hinv : (filler s).Inv) (ha : a < g) : InGap v g (a + 1) (filler s) := by
  obtain ⟨hparams, harmed, hseq0, hhead, hslots, hlast, hvalid, hrepeats⟩ := filler_fields s
  refine ⟨hinv, hparams.trans h.params_eq, harmed.trans h.armed, hseq0.trans h.seq0_eq, ?head, hlast.trans h.last_eq,
    hvalid.trans h.lastValid, ?repeats, fun b hb hab hwindow => ?empty⟩
  case head => rw [hhead, h.head_eq, Nat.add_assoc]
  case repeats =>
    rw [hrepeats, h.repeats_eq, h.params_eq]
    split_ifs <;> omega
  case empty =>
    rw [slot, hslots]
    by_cases hold : b < a + v.params.jbSlots
    · exact h.slots_empty b hb (by omega) hold
    · have hround : b = a + v.params.jbSlots := by omega
      rw [hround, slotAhead_add_jbSlots, ← h.headSlot_eq]
      exact h.headSlot_empty ha

/-- Which filler it is, and its output (R236). -/
theorem filler_answer (h : InGap v g a s) :
    if a < v.params.jbRepeatLimit then
      (filler s).result = .jbRepeat ∧ OutputBytes (filler s) v.jbLast
    else (filler s).result = .jbMissing ∧ OutputBytes (filler s) [] := by
  have hlimit : s.jbRepeats < s.params.jbRepeatLimit ↔ a < v.params.jbRepeatLimit := by
    rw [h.repeats_eq, h.params_eq]
    omega
  simp only [filler, hlimit]
  split_ifs
  · exact ⟨rfl, h.last_eq ▸ setResult_outBytes_outputBytes ..⟩
  · exact ⟨rfl, setResult_out_nil_outputBytes ..⟩

end InGap

/-- After a JB_DATA the gap begins, if none of its frames is held (R234). -/
theorem inGap_start {s : State} (hinv : (jbDeliver s).Inv) (harmed : s.jbArmed = true) {g : Nat}
    (hempty : ∀ b < g, b < (jbDeliver s).params.jbSlots → slot (jbDeliver s) (slotAhead (jbDeliver s) b) = []) :
    InGap (jbDeliver s) g 0 (jbDeliver s) :=
  ⟨hinv, rfl, harmed, rfl, rfl, rfl, rfl, (Nat.zero_min _).symm, fun b hb _ hwindow => hempty b hb (by omega)⟩

/-! ### The rounds -/

/-- The rounds of R236: the gap begins at `w 0`, its frames are never accepted, and a JB_GET ends each round. -/
structure GapRounds (cmds : Nat → List Instr) (w st : Nat → State) (g : Nat) : Prop where
  start : InGap (w 0) g 0 (w 0)
  head_lt : (w 0).jbH + g < 2 ^ 32 - 1
  gets : GetsAfter cmds w st g
  rejected : ∀ a ≤ g, ∀ b < g, ∀ f, ¬ Accepted (cmds a) (w a) (seqAhead (w 0) b) f

namespace GapRounds

variable {cmds : Nat → List Instr} {w st : Nat → State} {g a : Nat}

theorem inGap_get (h : GapRounds cmds w st g) (ha : a ≤ g) (hw : InGap (w 0) g a (w a)) : InGap (w 0) g a (st a) := by
  obtain ⟨hexec, -, -, htakes⟩ := h.gets a ha
  exact hw.after_commands htakes (h.rejected a ha) hexec

theorem head_ne_max (h : GapRounds cmds w st g) (ha : a ≤ g) (hst : InGap (w 0) g a (st a)) :
    (st a).jbH ≠ 2 ^ 32 - 1 := by
  have hlt := h.head_lt
  rw [hst.head_eq]
  omega

theorem get_eq_filler (h : GapRounds cmds w st g) (ha : a < g) (hst : InGap (w 0) g a (st a)) :
    w (a + 1) = filler (st a) := by
  obtain ⟨-, hdue, hget, -⟩ := h.gets a ha.le
  exact next_inj.mp (hget.symm.trans
    (execJbGet_eq_filler hdue (h.head_ne_max ha.le hst) (hst.headSlot_empty ha) hst.lastValid))

theorem inGap (h : GapRounds cmds w st g) (ha : a ≤ g) : InGap (w 0) g a (w a) := by
  induction a with
  | zero => exact h.start
  | succ a ih =>
    have hst := h.inGap_get (Nat.le_of_succ_le ha) (ih (Nat.le_of_succ_le ha))
    obtain ⟨-, -, hget, -⟩ := h.gets a (Nat.le_of_succ_le ha)
    have hfiller := h.get_eq_filler ha hst
    rw [hfiller] at hget ⊢
    exact hst.after_filler ((exec_effect hget).inv hst.inv) ha

theorem inGap_beforeGet (h : GapRounds cmds w st g) (ha : a ≤ g) : InGap (w 0) g a (st a) :=
  h.inGap_get ha (h.inGap ha)

/-- A frame held in some round is held in all later ones, since fillers take none out. -/
theorem slot_kept (h : GapRounds cmds w st g) {j b : Nat} {f : List Byte} (hf : f ≠ []) (hheld : slot (st a) j = f)
    (hab : a ≤ b) (hb : b ≤ g) : slot (st b) j = f := by
  induction b, hab using Nat.le_induction with
  | base => exact hheld
  | succ b hab ih =>
    obtain ⟨hexec, -, -, htakes⟩ := h.gets (b + 1) hb
    have hfiller := h.get_eq_filler hb (h.inGap_beforeGet (Nat.le_of_succ_le hb))
    obtain ⟨-, -, -, -, hslots, -⟩ := filler_fields (st b)
    have hw : slot (w (b + 1)) j = f := by
      rw [hfiller, slot, hslots]
      exact ih (Nat.le_of_succ_le hb)
    rw [execAll_slot_kept htakes hexec (hw ▸ hf), hw]

/-- The frame after the gap is at the head of the last round, held from the start or accepted on the way (R236). -/
theorem nextFrame_held (h : GapRounds cmds w st g) {f : List Byte} (hnext : NextFrameStored cmds w g f) :
    slot (st g) (slotAhead (w 0) g) = f ∧ f ≠ [] := by
  rcases hnext with ⟨-, hheld, hf⟩ | ⟨a, ha, haccepted⟩
  · obtain ⟨hexec, -, -, htakes⟩ := h.gets 0 (Nat.zero_le g)
    have hst : slot (st 0) (slotAhead (w 0) g) = f := (execAll_slot_kept htakes hexec (hheld ▸ hf)).trans hheld
    exact ⟨h.slot_kept hf hst (Nat.zero_le g) le_rfl, hf⟩
  · obtain ⟨hexec, -, -, htakes⟩ := h.gets a ha
    obtain ⟨hst, hf⟩ := (h.inGap ha).slot_of_accepted ha htakes (h.rejected a ha) hexec haccepted
    exact ⟨h.slot_kept hf hst ha le_rfl, hf⟩

/-- The JB_GET of the last round delivers what its head slot holds. -/
theorem get_eq_deliver (h : GapRounds cmds w st g) (hheld : slot (st g) (slotAhead (w 0) g) ≠ []) :
    w (g + 1) = jbDeliver (st g) := by
  have hst := h.inGap_beforeGet le_rfl
  obtain ⟨-, hdue, hget, -⟩ := h.gets g le_rfl
  rw [← hst.headSlot_eq] at hheld
  exact next_inj.mp (hget.symm.trans (execJbGet_of_held hdue (h.head_ne_max le_rfl hst) hheld))

end GapRounds

/-- Settles O51: each round before the g-th meets an empty slot of the gap, and the g-th meets the frame after it. -/
theorem silenceFill : Obligations.SilenceFill := by
  intro s₀ g cmds w st f hinv hget hdata hmax hgets ⟨hempty, hrejected⟩ hnext
  obtain ⟨⟨harmed, -⟩, -, hw⟩ := execJbGet_eq_deliver hget hdata
  have hstart : InGap (w 0) g 0 (w 0) := by
    have hinv' := (exec_effect hget).inv hinv
    rw [hw] at hempty hinv' ⊢
    exact inGap_start hinv' harmed hempty
  have h : GapRounds cmds w st g := ⟨hstart, hmax, hgets, hrejected⟩
  refine ⟨fun a ha => ?filler, ?next⟩
  case filler =>
    have hst := h.inGap_beforeGet ha.le
    have hanswer := hst.filler_answer
    rw [← h.get_eq_filler ha hst] at hanswer
    have hlast : (w 0).jbLast = slot s₀ (s₀.jbH % s₀.params.jbSlots) := by rw [hw]; rfl
    have hparams : (w 0).params = s₀.params := by rw [hw]; rfl
    rwa [hlast, hparams] at hanswer
  case next =>
    have hst := h.inGap_beforeGet le_rfl
    obtain ⟨hheld, hf⟩ := h.nextFrame_held hnext
    rw [h.get_eq_deliver (hheld ▸ hf)]
    rw [← hst.headSlot_eq] at hheld
    refine ⟨rfl, ?output, congrArg (· + 1) hst.head_eq⟩
    case output =>
      rw [← hheld]
      exact setResult_outBytes_outputBytes ..

end Sys2Proof.Machine
end

section
/-! PROOFS. The faults that a command can raise, and that a FAULTED command has no effect but its fault's
(30_encoding.md R74, 60_exceptions.md R300, R301, R306). -/

namespace Sys2Proof.Machine

open Sys2Proof.Claims

/-! ### How a command ends -/

/-- How a command ends: with a fault that is not the host's ERR_BUS, or with another RESULT than FAULTED and the fault
record as it was (R26, R300, R301). -/
inductive CommandEnd (s : State) : State → Prop where
  /-- A check of R74, or one of the command's own, failed. -/
  | faults (e : ErrCode) (hnone : e ≠ .noFault) (hbus : e ≠ .bus) : CommandEnd s (raiseFault e s)
  /-- The command completed. -/
  | completes {t : State} (hresult : t.result ≠ .faulted) (hsame : SameFaults s t) : CommandEnd s t

/-- The outcome `o` is a next state, and a command executed in `s` ends in it. -/
def Ends (s : State) (o : Host.Outcome State Fault Refusal) : Prop := ∃ t, o = .next t ∧ CommandEnd s t

theorem ends_raiseFault {e : ErrCode} (s : State) (hnone : e ≠ .noFault) (hbus : e ≠ .bus) :
    Ends s (.next (raiseFault e s)) := ⟨_, rfl, .faults e hnone hbus⟩

theorem ends_setResult {s u : State} {r : ResultCode} {a : Byte} (hr : r ≠ .faulted) (hu : SameFaults s u) :
    Ends s (.next (setResult r a u)) := ⟨_, rfl, .completes hr hu⟩

/-! ### Every command -/

theorem hammingDecode_ends (c : HammingCode) (s : State) : Ends s (.next (hammingDecode c s)) :=
  ends_setResult (c.correct_ne_faulted _) ⟨rfl, rfl⟩

theorem execQPush_ends (len : BitVec 8) (s : State) : Ends s (execQPush len s) := by
  unfold execQPush
  split_ifs
  · exact ends_raiseFault s (by decide) (by decide)
  · exact ends_setResult (by decide) ⟨rfl, rfl⟩
  · exact ends_setResult (by decide) ⟨rfl, rfl⟩

theorem execQPop_ends (s : State) : Ends s (execQPop s) := by
  unfold execQPop
  split
  · exact ends_setResult (by decide) ⟨rfl, rfl⟩
  · exact ends_setResult (by decide) ⟨rfl, rfl⟩

theorem execConvEnc_ends (n : BitVec 16) (s : State) : Ends s (execConvEnc n s) := by
  unfold execConvEnc
  split_ifs
  · exact ends_raiseFault s (by decide) (by decide)
  · exact ends_setResult (by decide) ⟨rfl, rfl⟩

theorem execConvStep_ends (s0 s1 : BitVec 8) (s : State) : Ends s (execConvStep s0 s1 s) := by
  unfold execConvStep
  split_ifs
  · exact ends_raiseFault s (by decide) (by decide)
  · exact ends_raiseFault s (by decide) (by decide)
  · exact ends_raiseFault s (by decide) (by decide)
  · exact ends_setResult (by decide) ⟨rfl, rfl⟩

theorem execConvChainback_ends (n : BitVec 16) (s : State) : Ends s (execConvChainback n s) := by
  unfold execConvChainback
  split_ifs
  · exact ends_raiseFault s (by decide) (by decide)
  · exact ends_raiseFault s (by decide) (by decide)
  · exact ends_raiseFault s (by decide) (by decide)
  · exact ends_setResult (by decide) ⟨rfl, rfl⟩

theorem jbStore_sameFaults (i seq : Nat) (frame : List Byte) (s : State) : SameFaults s (jbStore i seq frame s) := by
  unfold jbStore
  split_ifs
  · exact ⟨rfl, rfl⟩
  · exact ⟨rfl, rfl⟩

theorem execJbAdd_ends (len : BitVec 8) (seq : BitVec 16) (s : State) : Ends s (execJbAdd len seq s) := by
  unfold execJbAdd
  split_ifs
  · exact ends_raiseFault s (by decide) (by decide)
  · exact ends_setResult (by decide) ⟨rfl, rfl⟩
  · exact ends_setResult (by decide) ⟨rfl, rfl⟩
  · exact ends_setResult (by decide) (jbStore_sameFaults ..)

theorem execJbGet_ends (s : State) : Ends s (execJbGet s) := by
  unfold execJbGet
  split_ifs
  · exact ends_setResult (by decide) ⟨rfl, rfl⟩
  · exact ends_raiseFault s (by decide) (by decide)
  · exact ends_setResult (by decide) ⟨rfl, rfl⟩
  · exact ends_setResult (by decide) ⟨rfl, rfl⟩
  · exact ends_setResult (by decide) ⟨rfl, rfl⟩

theorem execJbClock_ends (ms : BitVec 16) (s : State) : Ends s (execJbClock ms s) := by
  refine ends_setResult (by decide) ?_
  split_ifs
  · exact ⟨rfl, rfl⟩
  · exact ⟨rfl, rfl⟩

/-- No command raises ERR_BUS, and one that raises no fault leaves the fault record alone (R26, R301). -/
theorem exec_ends (i : Instr) (s : State) : Ends s (exec i s) := by
  cases i with
  | nop | clrAll | qClear | convStart | jbReset => exact ends_setResult (by decide) ⟨rfl, rfl⟩
  | h15113aEnc | h15113bEnc | h1393Enc | h17123Enc | golayEnc | bptcEnc =>
    exact ends_setResult (by decide) ⟨rfl, rfl⟩
  | h15113aDec => exact hammingDecode_ends h15113a s
  | h15113bDec => exact hammingDecode_ends h15113b s
  | h1393Dec => exact hammingDecode_ends h1393 s
  | h17123Dec => exact hammingDecode_ends h17123 s
  | golayDec => exact ends_setResult (golayCorrect_ne_faulted _) ⟨rfl, rfl⟩
  | bptcDec => exact ends_setResult (bptcStatus_ne_faulted _) ⟨rfl, rfl⟩
  | qPush len => exact execQPush_ends len s
  | qPop => exact execQPop_ends s
  | convEnc n => exact execConvEnc_ends n s
  | convStep s0 s1 => exact execConvStep_ends s0 s1 s
  | convChainback n => exact execConvChainback_ends n s
  | jbAdd len seq => exact execJbAdd_ends len seq s
  | jbGet => exact execJbGet_ends s
  | jbClock ms => exact execJbClock_ends ms s

/-! ### The words written to CMD -/

theorem decodeErrCode_ne_bus (e : DecodeError) : decodeErrCode e ≠ .bus := by
  cases e <;> decide

theorem runCommand_ends (w : Word) (s : State) : Ends { s with cmdLast := w } (runCommand w s) := by
  unfold runCommand
  split
  next i _ => exact exec_ends i _
  next e _ => exact ends_raiseFault _ (decodeErrCode_ne_noFault e) (decodeErrCode_ne_bus e)

/-- Settles O55: a command that ends FAULTED did not complete, so all it did is raise its fault. -/
theorem faultedCommandHasNoOtherEffect : Obligations.FaultedCommandHasNoOtherEffect := by
  intro w s t hrun hfaulted
  obtain ⟨u, hu, hend⟩ := runCommand_ends w s
  obtain rfl := next_inj.mp (hrun.symm.trans hu)
  cases hend with
  | faults e hnone hbus => exact ⟨e, hnone, hbus, raiseFault_faultsWith e _⟩
  | completes hresult _ => exact absurd hfaulted hresult

/-- Settles O58: each outcome that `StepCompletes` admits is a next state. -/
theorem blockNeverStops : Obligations.BlockNeverStops := fun s =>
  let ⟨t, hstep, _⟩ := step_completes s
  ⟨t, hstep⟩

end Sys2Proof.Machine
end

section
/-! PROOFS. The accesses that are bus faults, and those outside the window (10_state.md R23; 20_memory.md R53 to R56,
R65; 60_exceptions.md R303, R314). -/

namespace Sys2Proof.Machine

open Sys2Proof.Claims

/-! ### Reads -/

/-- The map answers exactly the reads it allows (R23, R53 to R56). -/
theorem busRead_isSome_iff (s : State) (a width : Nat) : (busRead s a width).isSome = true ↔ LegalRead a width := by
  unfold busRead LegalRead
  split_ifs with hin hout hword
  · rw [inIbuf_iff] at hin
    simp only [Option.isSome_some, true_iff]
    omega
  · rw [inObuf_iff] at hout
    simp only [Option.isSome_some, true_iff]
    omega
  · rw [registerAt_isSome]
    omega
  · rw [inIbuf_iff] at hin
    rw [inObuf_iff] at hout
    simp only [Option.isSome_none, Bool.false_eq_true, false_iff]
    omega

/-- A read that the map does not allow, as a step: 0 returned, and the fault recorded (R303). -/
theorem busFaulted_of_not_legalRead {s : State} {a width : Nat} (ha : a < 4096) (hbad : ¬ LegalRead a width)
    (h : NextEvent s (.read (s.params.blockBase + a) width)) :
    ∃ t, StepsTo s t ∧ BusFaulted (taken s) t ∧ t.replies = s.replies ++ [0] := by
  have hnone : busRead (taken s) a width = none := by
    rwa [← busRead_isSome_iff (taken s), Bool.not_eq_true, Option.isSome_eq_false_iff,
      Option.isNone_iff_eq_none] at hbad
  have hread : hostRead a width (taken s) = reply 0 (busFault (taken s)) := by simp only [hostRead, hnone]
  refine ⟨reply 0 (busFault (taken s)), hread ▸ stepsTo_of_windowRead ha h, busFault_busFaulted (taken s), ?_⟩
  rw [reply_replies, busFault_replies, taken]

/-- A read that the map allows, as a step, records no fault (R59). -/
theorem sameFaults_of_legalRead {s : State} {a width : Nat} (ha : a < 4096) (hlegal : LegalRead a width)
    (h : NextEvent s (.read (s.params.blockBase + a) width)) : ∃ t, StepsTo s t ∧ SameFaults s t := by
  obtain ⟨v, hv⟩ := Option.isSome_iff_exists.mp ((busRead_isSome_iff (taken s) a width).mpr hlegal)
  exact ⟨_, stepsTo_of_busRead ha hv h, rfl, rfl⟩

/-! ### Writes -/

/-- A write that the map allows, as a step: a byte of IBUF, or a command with the fault it raises, if it raises one
(R53, R58, R300). -/
theorem legalWrite_faults {s : State} {a width : Nat} {v : Word} (ha : a < 4096) (hlegal : LegalWrite a width)
    (h : NextEvent s (.write (s.params.blockBase + a) width v)) :
    ∃ t, StepsTo s t ∧ (SameFaults s t ∨
      width = 32 ∧ s.fault = false ∧ t.fault = true ∧ t.result = .faulted ∧ t.faultCode ≠ .bus ∧
        t.faultCode ≠ .noFault) := by
  rcases hlegal with ⟨rfl, rfl⟩ | ⟨rfl, hlo, hhi⟩
  · obtain ⟨t, hrun, hend⟩ := runCommand_ends v (taken s)
    refine ⟨t, (step_of_commandWrite h).trans hrun, ?_⟩
    cases hend with
    | completes _ hsame => exact .inl hsame
    | faults e hnone hbus =>
      cases hfault : s.fault with
      | true => exact .inl (raiseFault_sameFaults e (s := { taken s with cmdLast := v }) hfault)
      | false => simp [taken, hfault, hnone, hbus]
  · obtain ⟨b, rfl⟩ := Nat.exists_eq_add_of_le hlo
    exact ⟨_, (step_of_windowWrite ha h).trans (hostWrite_ibuf _ v (by omega)), .inl ⟨rfl, rfl⟩⟩

/-- Settles O17: reads and writes, each inside and outside what the map allows. -/
theorem busFaultsExactly : Obligations.BusFaultsExactly := fun _ _ _ ha =>
  ⟨fun h hbad => busFaulted_of_not_legalRead ha hbad h, fun h hlegal => sameFaults_of_legalRead ha hlegal h,
    fun _ h hbad => busFaulted_of_not_legalWrite ha hbad h, fun _ h hlegal => legalWrite_faults ha hlegal h⟩

/-! ### No event, and events outside the window -/

/-- A host event that is no access of the block's window only leaves the list (R65). -/
theorem stepsTo_taken_of_hostEvent {s : State} {e : HostEvent} (h : NextEvent s e)
    (hforeign : hostEvent e (taken s) = .next (taken s)) : StepsTo s (taken s) :=
  (step_of_nextEvent h).trans hforeign

/-- Settles O6: without an event the step idles, and no address outside the window has a block-relative one. -/
theorem idleAndForeignAccesses : Obligations.IdleAndForeignAccesses := by
  refine fun s => ⟨step_nil, fun addr width v houtside => ?_⟩
  have haddr : toBlockAddr (taken s).params addr = none := toBlockAddr_outside s.params houtside
  exact ⟨fun h => stepsTo_taken_of_hostEvent h (by simp only [hostEvent, haddr]),
    fun h => stepsTo_taken_of_hostEvent h (by simp only [hostEvent, haddr])⟩

end Sys2Proof.Machine
end

section
/-! PROOFS. The reset state and the hardware reset (70_reset_and_hazards.md R330, R331). -/

namespace Sys2Proof.Machine

open Sys2Proof.Claims

/-- Every status register reads 0 after reset (R23, R330). -/
theorem registerAt_init (p : Params) :
    ∀ a ∈ [0x00, 0x04, 0x08, 0x0C, 0x10, 0x14, 0x18, 0x1C], registerAt (State.init p) a = some 0 := by
  simp [registerAt, regCmd, regResult, regOlen, regQstat, regJbstat, regJbtime, regJbhead, regConvstat, State.qUsed,
    State.qRecords, countRecords, State.jbHeadSeq, State.jbRunning, State.init, ResultCode.toByte, ErrCode.toByte]

/-- Settles O1: the reset state is `State.init`, read field by field. -/
theorem resetState : Obligations.ResetState := fun p hp => by
  refine ⟨State.init p, State.resetWith_of_legal hp, rfl, rfl, ⟨rfl, rfl⟩, rfl, rfl, rfl, fun _ => rfl, fun _ => rfl,
    rfl, rfl, rfl, ?slots, ?slotsEmpty, rfl, rfl, rfl, rfl, rfl, rfl, rfl, rfl, rfl, ?metrics, ?decisions,
    registerAt_init p⟩
  case slots => exact List.length_replicate
  case slotsEmpty => exact fun _ => List.eq_of_mem_replicate
  case metrics => exact fun i => Vector.getElem_replicate i.isLt
  case decisions => exact fun i => Vector.getElem_replicate i.isLt

/-- Settles O3: the step is `hardwareReset` of the state with the reset event taken. -/
theorem hardwareResetEvent : Obligations.HardwareResetEvent := fun _ h => step_of_nextEvent h

/-- Settles O53: the model's own reset state is the reset state of a legal set. -/
theorem invariantAtReset : Obligations.InvariantAtReset :=
  ⟨fun _ hp => inv_init hp, inv_init (p := Params.vectorDefaults) (by decide)⟩

end Sys2Proof.Machine
end
